-- ==== Sys2Proof/Config.lean ====
section
/-! DEFINITION. Sys2Proof/Config.lean: the parameters of ZDC (spec rule R5): every quantity the spec fixes for the
whole machine, each under the name the spec gives it. Nothing here changes while the machine runs. -/

namespace Sys2Proof.Config

/-- `IoErr`, the type of the payload of a source error. The spec leaves it open and opaque (R5, D17): ZDC copies values
of it and never looks inside. DESIGN CHOICE (log 4): a natural number stands for the payload, so a payload of any width
has one. -/
abbrev IoErr := Nat

/-- `KEY_INIT` of `k0` (R5). -/
def keyInit0 : BitVec 32 := 0x12345678#32

/-- `KEY_INIT` of `k1` (R5). -/
def keyInit1 : BitVec 32 := 0x23456789#32

/-- `KEY_INIT` of `k2` (R5). -/
def keyInit2 : BitVec 32 := 0x34567890#32

/-- `K1_MUL`, the multiplier of the `k1` update (R5): 134775813 = 0x08088405. -/
def k1Mul : BitVec 32 := 134775813#32

/-- `CRC_POLY` (R5), reflected. -/
def crcPoly : BitVec 32 := 0xEDB88320#32

/-- `MAGIC`, the local-file-header signature, in stream order (R5): the byte at position `p`. -/
def magic (p : BitVec 2) : BitVec 8 :=
  if p = 0#2 then 0x50#8 else if p = 1#2 then 0x4B#8 else if p = 2#2 then 0x03#8 else 0x04#8

/-- `ENC_HDR_LEN`, the length of the encryption header (R5). -/
def encHdrLen : BitVec 32 := 12#32

/-- The skip after the signature (R5): the two version bytes. -/
def skipAfterSignature : BitVec 32 := 2#32

/-- The skip after the flags byte (R5). -/
def skipAfterFlags : BitVec 32 := 11#32

/-- The skip after the compressed size (R5): the uncompressed size. -/
def skipAfterCsize : BitVec 32 := 4#32

/-- `CSIZE_REWRITE` (R5): the spec's normative value is 0, the size bytes pass unmodified (D9, C1; log 5). -/
def csizeRewrite : Bool := false

end Sys2Proof.Config
end

