-- ==== Sys2Proof/Word.lean ====
section
/-! DEFINITION. Sys2Proof/Word.lean: the words of ZDC: key words, bytes, the decode word, and what one transfer of each
channel carries (spec rules R6, R56, R58, R59, R100). -/

namespace Sys2Proof

/-- A *word* is 32 bits, unsigned (R6). -/
abbrev Word := BitVec 32

/-- A *byte* is 8 bits (R6). -/
abbrev Byte := BitVec 8

/-- The decode word `dw` of a step: `skipnz` 15, `st` 14:12, `idx` 11:8, `b` 7:0 (R56). -/
abbrev DecodeWord := BitVec 16

/-- One transfer of the password channel: `pw_data` and `pw_last` (R100). -/
structure PwBeat where
  data : Byte
  last : Bool
  deriving DecidableEq, Repr

/-- One transfer of the command channel: `cmd` (R58), and `pw_empty` as sampled with an `OPEN` (R100). -/
structure CmdWord where
  code : BitVec 2
  pwEmpty : Bool
  deriving DecidableEq, Repr

/-- What the source presents for one event: `src_kind` (R59), `src_data`, `src_err` (R100). -/
structure SrcWord where
  kind : BitVec 2
  data : Byte
  err : Config.IoErr
  deriving DecidableEq, Repr

/-- What happens at the reset pin and at the observation port before a step (R102, R109): nothing, the reset pin is
pulled, or the bench looks at the observation port. -/
inductive Pin where
  | idle
  | rst
  | obs
  deriving DecidableEq, Repr

end Sys2Proof
end

