-- ==== Sys2Proof/Syntax.lean ====
section
/-! DEFINITION. Sys2Proof/Syntax.lean: the operations of ZDC, one constructor for each row of the opcode table, in the
table's order (spec rule R64). -/

namespace Sys2Proof

/-- An operation of ZDC. The operand of every `STEP` row is the one input byte `b` (41_tracker.md). -/
inductive Instr where
  -- FUNC: the functions of the keystream generator (R70 to R75)
  /-- `CRCTAB` at an index (R70). -/
  | crctab (index : Byte)
  /-- `CRC32_STEP` (R71). -/
  | crc32Step (oldCrc : Word) (byte : Byte)
  /-- `UPDATE_KEYS` (R72). -/
  | updateKeys (plainByte : Byte)
  /-- `DERIVE_KS_BYTE` (R73). -/
  | deriveKsByte
  /-- `INIT_KEYS` (R74). -/
  | initKeys
  /-- `DECRYPT_BYTE` (R75). -/
  | decryptByte (c : Byte)
  -- STEP: the transitions of the header field tracker (R81 to R99)
  /-- `SKIP` (R81). -/
  | skip (b : Byte)
  /-- `SIG_M0` (R82). -/
  | sigM0 (b : Byte)
  /-- `SIG_M1` (R82). -/
  | sigM1 (b : Byte)
  /-- `SIG_M2` (R82). -/
  | sigM2 (b : Byte)
  /-- `SIG_M3` (R83). -/
  | sigM3 (b : Byte)
  /-- `SIG_MISMATCH` (R84). -/
  | sigMismatch (b : Byte)
  /-- `FLAGS_OK` (R85). -/
  | flagsOk (b : Byte)
  /-- `FLAGS_NOT_ENCRYPTED` (R86). -/
  | flagsNotEncrypted (b : Byte)
  /-- `FLAGS_STRONG` (R87). -/
  | flagsStrong (b : Byte)
  /-- `FLAGS_STREAMED` (R88). -/
  | flagsStreamed (b : Byte)
  /-- `CSIZE_B0` (R89). -/
  | csizeB0 (b : Byte)
  /-- `CSIZE_B1` (R89). -/
  | csizeB1 (b : Byte)
  /-- `CSIZE_B2` (R89). -/
  | csizeB2 (b : Byte)
  /-- `CSIZE_B3` (R90). -/
  | csizeB3 (b : Byte)
  /-- `FNLEN_LO` (R91). -/
  | fnlenLo (b : Byte)
  /-- `FNLEN_HI` (R92). -/
  | fnlenHi (b : Byte)
  /-- `EFLEN_LO` (R93). -/
  | eflenLo (b : Byte)
  /-- `EFLEN_HI` (R94). -/
  | eflenHi (b : Byte)
  /-- `ENCHDR_B0` (R95). -/
  | enchdrB0 (b : Byte)
  /-- `ENCHDR_MID_1` (R96). -/
  | enchdrMid1 (b : Byte)
  /-- `ENCHDR_MID_2_3` (R96). -/
  | enchdrMid2to3 (b : Byte)
  /-- `ENCHDR_MID_4_7` (R96). -/
  | enchdrMid4to7 (b : Byte)
  /-- `ENCHDR_MID_8_9` (R96). -/
  | enchdrMid8to9 (b : Byte)
  /-- `ENCHDR_MID_10` (R96). -/
  | enchdrMid10 (b : Byte)
  /-- `ENCHDR_B11` (R97). -/
  | enchdrB11 (b : Byte)
  /-- `DATA_BYTE` (R98). -/
  | dataByte (b : Byte)
  /-- `TAIL_BYTE` (R99). -/
  | tailByte (b : Byte)
  -- SRC: the source events (R104 to R106)
  /-- `PUSH` (R104). -/
  | push (b : Byte)
  /-- `SRC_EOS` (R105). -/
  | srcEos
  /-- `SRC_ERR` (R106). -/
  | srcErr (e : Config.IoErr)
  -- CMD: the host's commands (R103, R107, R108)
  /-- `OPEN` with the password bytes, byte 0 first (R103). -/
  | openSession (password : List Byte)
  /-- `READ` (R107). -/
  | read
  /-- `CLOSE` (R108). -/
  | close
  -- PIN: the reset pin and the observation port (R102, R109)
  /-- `RESET` (R102). -/
  | reset
  /-- `OBS` (R109). -/
  | obs
  deriving DecidableEq, Repr

end Sys2Proof
end

