-- ==== Sys2Proof/WellFormed.lean ====
section
/-! DEFINITION. Sys2Proof/WellFormed.lean: which operands an operation's encoding admits (spec rules R57, R82 to R88): a
`STEP` row whose mask covers bits of the input byte admits only the bytes that agree with its pattern there. -/

namespace Sys2Proof

/-- The operand is one the operation's row admits. Rows whose mask leaves the byte open, and every other format, admit
every operand; the password of an `OPEN` has any length (`PW_MAX` is open: log 3). -/
def Instr.wellFormed : Instr → Bool
  | .crctab _ => true
  | .crc32Step _ _ => true
  | .updateKeys _ => true
  | .deriveKsByte => true
  | .initKeys => true
  | .decryptByte _ => true
  | .skip _ => true
  | .sigM0 b => b == Config.magic 0#2
  | .sigM1 b => b == Config.magic 1#2
  | .sigM2 b => b == Config.magic 2#2
  | .sigM3 b => b == Config.magic 3#2
  | .sigMismatch _ => true
  | .flagsOk b => b &&& 0x49#8 == 0x01#8
  | .flagsNotEncrypted b => b &&& 0x01#8 == 0x00#8
  | .flagsStrong b => b &&& 0x41#8 == 0x41#8
  | .flagsStreamed b => b &&& 0x49#8 == 0x09#8
  | .csizeB0 _ => true
  | .csizeB1 _ => true
  | .csizeB2 _ => true
  | .csizeB3 _ => true
  | .fnlenLo _ => true
  | .fnlenHi _ => true
  | .eflenLo _ => true
  | .eflenHi _ => true
  | .enchdrB0 _ => true
  | .enchdrMid1 _ => true
  | .enchdrMid2to3 _ => true
  | .enchdrMid4to7 _ => true
  | .enchdrMid8to9 _ => true
  | .enchdrMid10 _ => true
  | .enchdrB11 _ => true
  | .dataByte _ => true
  | .tailByte _ => true
  | .push _ => true
  | .srcEos => true
  | .srcErr _ => true
  | .openSession _ => true
  | .read => true
  | .close => true
  | .reset => true
  | .obs => true

end Sys2Proof
end

