-- ==== Sys2Proof/Decode.lean ====
section
/-! DEFINITION. Sys2Proof/Decode.lean: what selects an operation (30_encoding.md): the `STEP` rows over the decode word
(spec rules R56, R57), the commands (R58), the source events (R59), the pins (R64); then the encoder, and the opcode
table's own numbering of words. -/

namespace Sys2Proof

/-- Which `STEP` row of the opcode table a step performs. -/
inductive StepOp where
  | skip
  | sigM0
  | sigM1
  | sigM2
  | sigM3
  | sigMismatch
  | flagsOk
  | flagsNotEncrypted
  | flagsStrong
  | flagsStreamed
  | csizeB0
  | csizeB1
  | csizeB2
  | csizeB3
  | fnlenLo
  | fnlenHi
  | eflenLo
  | eflenHi
  | enchdrB0
  | enchdrMid1
  | enchdrMid2to3
  | enchdrMid4to7
  | enchdrMid8to9
  | enchdrMid10
  | enchdrB11
  | dataByte
  | tailByte
  deriving DecidableEq, Repr

/-- The operation a `STEP` row stands for, with its operand, the input byte. -/
def StepOp.instr : StepOp → Byte → Instr
  | .skip, b => .skip b
  | .sigM0, b => .sigM0 b
  | .sigM1, b => .sigM1 b
  | .sigM2, b => .sigM2 b
  | .sigM3, b => .sigM3 b
  | .sigMismatch, b => .sigMismatch b
  | .flagsOk, b => .flagsOk b
  | .flagsNotEncrypted, b => .flagsNotEncrypted b
  | .flagsStrong, b => .flagsStrong b
  | .flagsStreamed, b => .flagsStreamed b
  | .csizeB0, b => .csizeB0 b
  | .csizeB1, b => .csizeB1 b
  | .csizeB2, b => .csizeB2 b
  | .csizeB3, b => .csizeB3 b
  | .fnlenLo, b => .fnlenLo b
  | .fnlenHi, b => .fnlenHi b
  | .eflenLo, b => .eflenLo b
  | .eflenHi, b => .eflenHi b
  | .enchdrB0, b => .enchdrB0 b
  | .enchdrMid1, b => .enchdrMid1 b
  | .enchdrMid2to3, b => .enchdrMid2to3 b
  | .enchdrMid4to7, b => .enchdrMid4to7 b
  | .enchdrMid8to9, b => .enchdrMid8to9 b
  | .enchdrMid10, b => .enchdrMid10 b
  | .enchdrB11, b => .enchdrB11 b
  | .dataByte, b => .dataByte b
  | .tailByte, b => .tailByte b

/-- A row of format `STEP`: it applies to `dw` when `dw &&& mask = pattern` (R56). -/
structure StepRow where
  pattern : DecodeWord
  mask : DecodeWord
  op : StepOp
  deriving DecidableEq, Repr

/-- The row applies to the decode word (R56). -/
def StepRow.applies (r : StepRow) (dw : DecodeWord) : Bool := dw &&& r.mask == r.pattern

/-- The rows of format `STEP` (opcode_table.json), all but the fallback row `SIG_MISMATCH`. -/
def stepRows : List StepRow :=
  [ ⟨0x8000#16, 0x8000#16, .skip⟩,
    ⟨0x0050#16, 0xFFFF#16, .sigM0⟩,
    ⟨0x014B#16, 0xFFFF#16, .sigM1⟩,
    ⟨0x0203#16, 0xFFFF#16, .sigM2⟩,
    ⟨0x0304#16, 0xFFFF#16, .sigM3⟩,
    ⟨0x1001#16, 0xF049#16, .flagsOk⟩,
    ⟨0x1000#16, 0xF001#16, .flagsNotEncrypted⟩,
    ⟨0x1041#16, 0xF041#16, .flagsStrong⟩,
    ⟨0x1009#16, 0xF049#16, .flagsStreamed⟩,
    ⟨0x2000#16, 0xFF00#16, .csizeB0⟩,
    ⟨0x2100#16, 0xFF00#16, .csizeB1⟩,
    ⟨0x2200#16, 0xFF00#16, .csizeB2⟩,
    ⟨0x2300#16, 0xFF00#16, .csizeB3⟩,
    ⟨0x3000#16, 0xFF00#16, .fnlenLo⟩,
    ⟨0x3100#16, 0xFF00#16, .fnlenHi⟩,
    ⟨0x4000#16, 0xFF00#16, .eflenLo⟩,
    ⟨0x4100#16, 0xFF00#16, .eflenHi⟩,
    ⟨0x5000#16, 0xFF00#16, .enchdrB0⟩,
    ⟨0x5100#16, 0xFF00#16, .enchdrMid1⟩,
    ⟨0x5200#16, 0xFE00#16, .enchdrMid2to3⟩,
    ⟨0x5400#16, 0xFC00#16, .enchdrMid4to7⟩,
    ⟨0x5800#16, 0xFE00#16, .enchdrMid8to9⟩,
    ⟨0x5A00#16, 0xFF00#16, .enchdrMid10⟩,
    ⟨0x5B00#16, 0xFF00#16, .enchdrB11⟩,
    ⟨0x6000#16, 0xF000#16, .dataByte⟩,
    ⟨0x7000#16, 0xF000#16, .tailByte⟩ ]

/-- The words of the fallback row (R56, R84): `dw[15:12] = 0`, with `idx` at most 3. A word with `st = Signature` and
`idx > 3` cannot arise and has no row (R61 item 6; log 10). -/
def fallbackRow : StepRow := ⟨0x0000#16, 0xFC00#16, .sigMismatch⟩

/-- Why a word selects no operation. -/
inductive DecodeError where
  /-- A decode word no step can form (R61 item 6). -/
  | unreachableDecodeWord
  /-- Command code 0, no command (R58); an idle pin. -/
  | noCommand
  /-- An `OPEN` whose last password byte has not been transferred (R100, R103). -/
  | passwordPending
  /-- Source event code 3 (R59). -/
  | reservedEvent
  deriving DecidableEq, Repr

/-- The row of the opcode table that applies to a decode word: a row of `stepRows`, else the fallback row (R56, R57). -/
def selectStep (dw : DecodeWord) : Except DecodeError StepOp :=
  match stepRows.find? (fun r => r.applies dw) with
  | some r => .ok r.op
  | none => if fallbackRow.applies dw then .ok fallbackRow.op else .error .unreachableDecodeWord

/-- The input byte of a decode word, bits 7:0 (R56). -/
def dwByte (dw : DecodeWord) : Byte := dw.extractLsb' 0 8

/-- `idx`, bits 11:8 of a decode word (R56). -/
def dwIdx (dw : DecodeWord) : BitVec 4 := dw.extractLsb' 8 4

/-- `st`, bits 14:12 of a decode word (R56). -/
def dwState (dw : DecodeWord) : BitVec 3 := dw.extractLsb' 12 3

/-- `skipnz`, bit 15 of a decode word (R56). -/
def dwSkipnz (dw : DecodeWord) : Bool := dw.getLsbD 15

/-- The decode word of the four fields (R56). -/
def packDecodeWord (skipnz : Bool) (st : BitVec 3) (idx : BitVec 4) (b : Byte) : DecodeWord :=
  BitVec.ofBool skipnz ++ st ++ idx ++ b

/-- The operation a decode word selects (R56, R57). -/
def decodeStep (dw : DecodeWord) : Except DecodeError Instr :=
  match selectStep dw with
  | .ok op => .ok (op.instr (dwByte dw))
  | .error e => .error e

/-- The password the transfers carry, byte 0 first, up to the one with `pw_last = 1` (R100). None while that one has not
been made. -/
def takePassword : List PwBeat → Option (List Byte)
  | [] => none
  | p :: ps => if p.last then some [p.data] else (takePassword ps).map (p.data :: ·)

/-- The operation a command selects (R58), with the password transfers made for it. `pw_empty = 1` means an `OPEN` with no
password byte (R100). -/
def decodeCmd (w : CmdWord) (pw : List PwBeat) : Except DecodeError Instr :=
  if w.code = 1#2 then
    if w.pwEmpty then .ok (.openSession [])
    else match takePassword pw with
      | some password => .ok (.openSession password)
      | none => .error .passwordPending
  else if w.code = 2#2 then .ok .read
  else if w.code = 3#2 then .ok .close
  else .error .noCommand

/-- The operation a source event selects (R59). -/
def decodeSrc (w : SrcWord) : Except DecodeError Instr :=
  if w.kind = 0#2 then .ok (.push w.data)
  else if w.kind = 1#2 then .ok .srcEos
  else if w.kind = 2#2 then .ok (.srcErr w.err)
  else .error .reservedEvent

/-- The operation a pin stands for (R64). -/
def decodePin : Pin → Except DecodeError Instr
  | .idle => .error .noCommand
  | .rst => .ok .reset
  | .obs => .ok .obs

/-- A word that selects an operation, on the channel it stands on (R64): the decode word of a step, a command with its
password transfers, a source event, a pin. -/
inductive PortWord where
  | step (dw : DecodeWord)
  | cmd (w : CmdWord) (pw : List PwBeat)
  | src (w : SrcWord)
  | pin (p : Pin)
  deriving DecidableEq, Repr

/-- The decoder: the operation a word selects, total, refusing by name. -/
def decode : PortWord → Except DecodeError Instr
  | .step dw => decodeStep dw
  | .cmd w pw => decodeCmd w pw
  | .src w => decodeSrc w
  | .pin p => decodePin p

/-- The transfers that carry a password, `pw_last = 1` on the final byte (R100). -/
def passwordBeats : List Byte → List PwBeat
  | [] => []
  | [b] => [⟨b, true⟩]
  | b :: c :: bs => ⟨b, false⟩ :: passwordBeats (c :: bs)

/-- The command word of a code that carries no password. -/
def plainCmd (code : BitVec 2) : CmdWord := ⟨code, true⟩

/-- A decode word of a row whose mask fixes the high half: `hi` is bits 15:8. -/
def highByteWord (hi b : Byte) : PortWord := .step (hi ++ b)

/-- The encoder (R56, R58, R59, R64): a word that selects the operation; none for the `FUNC` rows, which are not decoded
from anything (R64). Where a row leaves `st` or `idx` open, the word with the lowest value there is taken (log 23). -/
def encode : Instr → Option PortWord
  | .crctab _ => none
  | .crc32Step _ _ => none
  | .updateKeys _ => none
  | .deriveKsByte => none
  | .initKeys => none
  | .decryptByte _ => none
  | .skip b => some (highByteWord 0x80#8 b)
  | .sigM0 b => some (highByteWord 0x00#8 b)
  | .sigM1 b => some (highByteWord 0x01#8 b)
  | .sigM2 b => some (highByteWord 0x02#8 b)
  | .sigM3 b => some (highByteWord 0x03#8 b)
  | .sigMismatch b => some (highByteWord (if b = 0x50#8 then 0x01#8 else 0x00#8) b)
  | .flagsOk b => some (highByteWord 0x10#8 b)
  | .flagsNotEncrypted b => some (highByteWord 0x10#8 b)
  | .flagsStrong b => some (highByteWord 0x10#8 b)
  | .flagsStreamed b => some (highByteWord 0x10#8 b)
  | .csizeB0 b => some (highByteWord 0x20#8 b)
  | .csizeB1 b => some (highByteWord 0x21#8 b)
  | .csizeB2 b => some (highByteWord 0x22#8 b)
  | .csizeB3 b => some (highByteWord 0x23#8 b)
  | .fnlenLo b => some (highByteWord 0x30#8 b)
  | .fnlenHi b => some (highByteWord 0x31#8 b)
  | .eflenLo b => some (highByteWord 0x40#8 b)
  | .eflenHi b => some (highByteWord 0x41#8 b)
  | .enchdrB0 b => some (highByteWord 0x50#8 b)
  | .enchdrMid1 b => some (highByteWord 0x51#8 b)
  | .enchdrMid2to3 b => some (highByteWord 0x52#8 b)
  | .enchdrMid4to7 b => some (highByteWord 0x54#8 b)
  | .enchdrMid8to9 b => some (highByteWord 0x58#8 b)
  | .enchdrMid10 b => some (highByteWord 0x5A#8 b)
  | .enchdrB11 b => some (highByteWord 0x5B#8 b)
  | .dataByte b => some (highByteWord 0x60#8 b)
  | .tailByte b => some (highByteWord 0x70#8 b)
  | .push b => some (.src ⟨0#2, b, 0⟩)
  | .srcEos => some (.src ⟨1#2, 0#8, 0⟩)
  | .srcErr e => some (.src ⟨2#2, 0#8, e⟩)
  | .openSession password => some (.cmd ⟨1#2, password.isEmpty⟩ (passwordBeats password))
  | .read => some (.cmd (plainCmd 2#2) [])
  | .close => some (.cmd (plainCmd 3#2) [])
  | .reset => some (.pin .rst)
  | .obs => some (.pin .obs)

/-- The word the opcode table's numbering stands for. More than 8 bits: a decode word. Up to 8 bits: a 2-bit code, and the
table gives the commands and the source events the same codes 1 and 2. Code 0, which is no command (R58), is read as the
source event `Byte` of a zero byte, and 1, 2, 3 as the commands; an `OPEN` of no operand bits is one with the empty
password. DESIGN CHOICE (log 14): it concerns this numbering only, `decode` keeps the two channels apart. -/
def tableWord (nbits w : Nat) : PortWord :=
  if 8 < nbits then .step (BitVec.ofNat 16 w)
  else if w % 4 = 0 then .src ⟨0#2, 0#8, 0⟩
  else .cmd (plainCmd (BitVec.ofNat 2 w)) []

/-- The operation the decoder reads from a word numbered as the opcode table numbers it. -/
def decodeTableWord (nbits w : Nat) : Option Instr :=
  match decode (tableWord nbits w) with
  | .ok i => some i
  | .error _ => none

end Sys2Proof
end

