-- ==== Sys2Proof/Machine/State.lean ====
section
/-! DEFINITION. Sys2Proof/Machine/State.lean: everything ZDC holds (10_state.md), what stands at its ports (42_relay.md),
and the ways the model can stop. Plain data throughout. -/

namespace Sys2Proof.Machine

/-- `CipherKeys`: the three key registers (R11). -/
structure Keys where
  k0 : Word
  k1 : Word
  k2 : Word
  deriving DecidableEq, Repr

/-- `ParserState`, the values of the register `state` (R12). -/
inductive ParserState where
  | signature
  | flags
  | compressedSize
  | filenameLength
  | extraFieldLength
  | encryptionHeader
  | data
  | tail
  deriving DecidableEq, Repr

/-- The protocol violations (R120). -/
inductive Violation where
  /-- Flags byte with bit 0 clear (R121). -/
  | notEncrypted
  /-- Flags byte with bit 6 set (R122). -/
  | strongEncryptionUnsupported
  /-- Flags byte with bit 3 set (R123). -/
  | unsupportedStreamedFormat
  deriving DecidableEq, Repr

/-- A disposition: what a step or a command gives back (R6, R59). -/
inductive Disposition where
  | emit (b : Byte)
  | drop
  | endOfStream
  | fail (v : Violation)
  | ioError (e : Config.IoErr)
  | refused
  | ok
  deriving DecidableEq, Repr

/-- What a function of the keystream generator returned when it was called as an operation of its own: `CRCTAB` and
`CRC32_STEP` a word, `DERIVE_KS_BYTE` and `DECRYPT_BYTE` a byte. The model's own (log 8). -/
inductive FuncResult where
  | word (w : Word)
  | byte (b : Byte)
  deriving DecidableEq, Repr

/-- What the observation port shows (R109, D20): every session register at its port's width, the password bytes not among
them. -/
structure Observation where
  k0 : Word
  k1 : Word
  k2 : Word
  state : BitVec 3
  skipBytes : BitVec 32
  compressedSize : BitVec 32
  value : BitVec 32
  valuePos : BitVec 2
  valueIncrement : BitVec 8
  sigIdx : BitVec 2
  hdrPos : BitVec 4
  fnLen : BitVec 16
  fault : BitVec 3
  sessionOpen : Bool
  pwLen : Nat
  deriving DecidableEq, Repr

/-- The state of ZDC and its surroundings. -/
structure State where
  /-- `session_open` (R20). -/
  sessionOpen : Bool
  /-- `fault`, the latched violation (R19). -/
  fault : Option Violation
  /-- `state` (R12). -/
  state : ParserState
  /-- `skip_bytes` (R13). -/
  skipBytes : BitVec 32
  /-- `compressed_size` (R14). -/
  compressedSize : BitVec 32
  /-- `value` (R15). -/
  value : BitVec 32
  /-- `value_pos` (R15). -/
  valuePos : BitVec 2
  /-- `value_increment` (R15). -/
  valueIncrement : BitVec 8
  /-- `sig_idx` (R16). -/
  sigIdx : BitVec 2
  /-- `hdr_pos` (R17). -/
  hdrPos : BitVec 4
  /-- `fn_len` (R18). -/
  fnLen : BitVec 16
  /-- `k0`, `k1`, `k2` (R11). -/
  keys : Keys
  /-- `pw[0 .. pw_len - 1]` (R21). -/
  pw : List Byte
  /-- A `READ` is being performed (R107): `cmd_ready = 0` (R112). -/
  reading : Bool
  /-- An `OPEN` is being performed: it has been taken and the last password byte has not (R100, R103): `cmd_ready = 0`
  (R112). The password bytes transferred so far, byte 0 first. -/
  opening : Option (List Byte)
  /-- The reset pin and the observation port, one entry for each coming step (R102, R109; log 2). -/
  pins : List Pin
  /-- The commands the host presents, the next first (R100, R101; log 2). -/
  cmds : List CmdWord
  /-- The transfers the host presents on the password channel, the next first (R100; log 2). -/
  pwBeats : List PwBeat
  /-- The events the source will deliver when asked, the next first (R33, R100; log 2). -/
  src : List SrcWord
  /-- The sink stream: every disposition given, the oldest first (R34; log 20). -/
  out : List Disposition
  /-- How often `src_release` has pulsed (R100, R108; log 20). -/
  releases : Nat
  /-- What the last directly called function returned (the model's own; log 8). -/
  result : Option FuncResult
  /-- What the bench last saw on the observation port (the model's own; log 9). -/
  obsSample : Option Observation
  deriving DecidableEq, Repr

/-- Why the machine stops. ZDC itself never does: a violation is a latched register and a disposition (R126). -/
inductive Fault where
  /-- Raised by `PUSH` when the decode word is one that cannot arise (R61 item 6, U12): the opcode table has no row for it.
  Safe: no state that meets `State.Inv` raises it (log 10). -/
  | unreachableDecodeWord
  deriving DecidableEq, Repr

/-- Why the model has no meaning for an operation. -/
inductive Refusal where
  /-- An operation whose arm in `exec` is still rejected by name. Safe. No arm is. -/
  | notModelled (mnemonic : String)
  deriving DecidableEq, Repr

/-- What an operation or a step ends in. -/
abbrev Result := Host.Outcome State Fault Refusal

/-- The machine right after reset, with nothing at its ports (R27, R102, R140). -/
def State.reset : State where
  sessionOpen := false
  fault := none
  state := .signature
  skipBytes := 0#32
  compressedSize := 0#32
  value := 0#32
  valuePos := 0#2
  valueIncrement := 0#8
  sigIdx := 0#2
  hdrPos := 0#4
  fnLen := 0#16
  keys := ⟨0#32, 0#32, 0#32⟩
  pw := []
  reading := false
  opening := none
  pins := []
  cmds := []
  pwBeats := []
  src := []
  out := []
  releases := 0
  result := none
  obsSample := none

end Sys2Proof.Machine
end

