-- ==== Sys2Proof/Machine/Flags.lean ====
section
/-! DEFINITION. Sys2Proof/Machine/Flags.lean: the flags byte of a local file header (spec rule R52) and the numeric codes
of `state` (R55), of the violations (R120) and of the dispositions (R59). ZDC has no condition codes (R26). -/

namespace Sys2Proof.Machine

/-- Bit 0 of the flags byte: encrypted (R52). -/
def flagEncrypted (b : Byte) : Bool := b.getLsbD 0

/-- Bit 3 of the flags byte: sizes in a trailing data descriptor (R52). -/
def flagStreamed (b : Byte) : Bool := b.getLsbD 3

/-- Bit 6 of the flags byte: strong encryption (R52). -/
def flagStrong (b : Byte) : Bool := b.getLsbD 6

/-- The flags byte as emitted: bit 0 cleared, all other bits preserved (R52, R85). -/
def clearEncrypted (b : Byte) : Byte := b &&& 0xFE#8

/-- The violation a flags byte raises, if any: bit 0 first, then bit 6, then bit 3 (R125). -/
def flagsViolation (b : Byte) : Option Violation :=
  if !flagEncrypted b then some .notEncrypted
  else if flagStrong b then some .strongEncryptionUnsupported
  else if flagStreamed b then some .unsupportedStreamedFormat
  else none

/-- The code of a parser state (R55). -/
def ParserState.code : ParserState → BitVec 3
  | .signature => 0#3
  | .flags => 1#3
  | .compressedSize => 2#3
  | .filenameLength => 3#3
  | .extraFieldLength => 4#3
  | .encryptionHeader => 5#3
  | .data => 6#3
  | .tail => 7#3

/-- The parser state of a code (R55). -/
def ParserState.ofCode (c : BitVec 3) : ParserState :=
  if c = 0#3 then .signature
  else if c = 1#3 then .flags
  else if c = 2#3 then .compressedSize
  else if c = 3#3 then .filenameLength
  else if c = 4#3 then .extraFieldLength
  else if c = 5#3 then .encryptionHeader
  else if c = 6#3 then .data
  else .tail

/-- The code of a violation (R120). -/
def Violation.code : Violation → BitVec 3
  | .notEncrypted => 1#3
  | .strongEncryptionUnsupported => 2#3
  | .unsupportedStreamedFormat => 3#3

/-- The register `fault` as a number: 0 when no violation is latched (R19). -/
def faultCode : Option Violation → BitVec 3
  | none => 0#3
  | some v => v.code

/-- `out_kind`, the code of a disposition (R59). -/
def Disposition.kind : Disposition → BitVec 3
  | .emit _ => 0#3
  | .drop => 1#3
  | .endOfStream => 2#3
  | .fail _ => 3#3
  | .ioError _ => 4#3
  | .refused => 5#3
  | .ok => 6#3

/-- `out_data`: the byte of an `Emit`; the code of a `Fail` in bits 2:0 (R100). 0 for a disposition that carries neither,
on which the port says nothing (log 20). -/
def Disposition.dataOut : Disposition → Byte
  | .emit b => b
  | .drop => 0#8
  | .endOfStream => 0#8
  | .fail v => v.code.setWidth 8
  | .ioError _ => 0#8
  | .refused => 0#8
  | .ok => 0#8

/-- `out_err`: the payload of an `IoError` (R100). -/
def Disposition.errOut : Disposition → Option Config.IoErr
  | .emit _ => none
  | .drop => none
  | .endOfStream => none
  | .fail _ => none
  | .ioError e => some e
  | .refused => none
  | .ok => none

/-- The error a disposition reports, by the codes of R120: 1 to 3 a violation, 4 `UnderlyingIoError`, 0 none. -/
def Disposition.errorCode : Disposition → BitVec 3
  | .emit _ => 0#3
  | .drop => 0#3
  | .endOfStream => 0#3
  | .fail v => v.code
  | .ioError _ => 4#3
  | .refused => 0#3
  | .ok => 0#3

/-- The byte a disposition puts into the output byte stream: only an `Emit` puts one (R34). -/
def Disposition.outByte : Disposition → Option Byte
  | .emit b => some b
  | .drop => none
  | .endOfStream => none
  | .fail _ => none
  | .ioError _ => none
  | .refused => none
  | .ok => none

/-- The output byte stream of a sink stream (R34): the bytes of its `Emit` dispositions, in order. -/
def outputBytes (ds : List Disposition) : List Byte := ds.filterMap Disposition.outByte

end Sys2Proof.Machine
end

