-- ==== Sys2Proof/Machine/Operands.lean ====
section
/-! DEFINITION. Sys2Proof/Machine/Operands.lean: how operands are put together: bytes and slices of words (spec rules R6,
R35), the fields collected from the stream (R53), the emitted size byte (R89), and the decode word of a step (R56). -/

namespace Sys2Proof.Machine

/-- `zext_32` of a byte (R6). -/
def zext32 (b : Byte) : Word := b.setWidth 32

/-- `byte_of(v)`, that is `v[7:0]` (R6). -/
def byteOf (v : Word) : Byte := v.setWidth 8

/-- What a byte at position `p` of a little-endian field contributes: `zext_32(b) << (8 * p)` (R35, R53). -/
def fieldPart (b : Byte) (p : BitVec 2) : Word := zext32 b <<< (8 * p.toNat)

/-- The emitted byte of the compressed-size field: the byte itself with `CSIZE_REWRITE = 0`, else the byte minus
`value_increment` modulo 256 (R89, R90). -/
def csizeOut (rewrite : Bool) (b inc : Byte) : Byte := if rewrite then b - inc else b

/-- `value_increment` after one of the first three size bytes: with `CSIZE_REWRITE = 1` the borrow, else unchanged (R89). -/
def csizeBorrow (rewrite : Bool) (b inc : Byte) : Byte :=
  if rewrite then (if b < inc then 1#8 else 0#8) else inc

/-- `value_increment` as the flags byte leaves it (R85). -/
def csizeFirstBorrow (rewrite : Bool) : Byte := if rewrite then 12#8 else 0#8

/-- The field `idx` of the decode word: the position register the parser state goes by, 0 where it goes by none (R56). -/
def State.idx (s : State) : BitVec 4 :=
  match s.state with
  | .signature => s.sigIdx.setWidth 4
  | .flags => 0#4
  | .compressedSize => s.valuePos.setWidth 4
  | .filenameLength => s.valuePos.setWidth 4
  | .extraFieldLength => s.valuePos.setWidth 4
  | .encryptionHeader => s.hdrPos
  | .data => 0#4
  | .tail => 0#4

/-- The decode word of a step: the control position as it stands, and the input byte (R28, R56). -/
def State.decodeWord (s : State) (b : Byte) : DecodeWord :=
  packDecodeWord (s.skipBytes != 0#32) s.state.code s.idx b

end Sys2Proof.Machine
end

