-- ==== Sys2Proof/Machine/Ops.lean ====
section
/-! DEFINITION. Sys2Proof/Machine/Ops.lean: the operations every meaning is written with: giving a disposition, accepting
an event, raising a violation, clearing a session, looking at the observation port. -/

namespace Sys2Proof.Machine

/-- A disposition goes out: the sink stream grows by it (R34). -/
def State.respond (s : State) (d : Disposition) : State := { s with out := s.out ++ [d] }

/-- The disposition of a source event goes out. A `READ` in progress goes on after a `Drop` and ends with any other
disposition, which is its answer (R107). -/
def State.answer (s : State) (d : Disposition) : State :=
  { s with out := s.out ++ [d], reading := s.reading && (d == .drop) }

/-- A source event can be accepted: a session is open and no violation is latched (R80, R104, R110). -/
def State.accepts (s : State) : Bool := s.sessionOpen && s.fault.isNone

/-- What an accepted event does; where it cannot be accepted nothing changes (R110; log 13). -/
def State.onEvent (s : State) (f : State → State) : Result :=
  .next (if s.accepts then f s else s)

/-- Fault entry, `raise V` (R6, R126): the code is latched, the disposition is `Fail(code)`, nothing else is written. There
is no handler and nothing is saved. There is no return from a fault (R128): the ways on are `CLOSE` and then `OPEN`, or
reset, and no operation clears `fault` and resumes the session. -/
def State.raise (s : State) (v : Violation) : State := { s.answer (.fail v) with fault := some v }

/-- The key registers are written (R11). -/
def State.withKeys (s : State) (k : Keys) : State := { s with keys := k }

/-- Every session register but the password and `session_open` at its value after reset, which is also its value after
`OPEN` (R27). -/
def State.clearSession (s : State) : State :=
  { s with
    fault := none
    state := .signature
    skipBytes := 0#32
    compressedSize := 0#32
    value := 0#32
    valuePos := 0#2
    valueIncrement := 0#8
    sigIdx := 0#2
    hdrPos := 0#4
    fnLen := 0#16
    keys := ⟨0#32, 0#32, 0#32⟩ }

/-- `pw_len`: how many password bytes the session holds (R21). -/
def State.pwLen (s : State) : Nat := s.pw.length

/-- `pw[i]` (R32): the password byte at an index below `pw_len`. -/
def State.pwByte (s : State) (i : Nat) : Option Byte := s.pw[i]?

/-- `cmd_ready`: 0 while a command is being performed (R100, R112). -/
def State.cmdReady (s : State) : Bool := !s.reading && s.opening.isNone

/-- `pw_ready`: the password channel is used only during `OPEN` (R100). -/
def State.pwReady (s : State) : Bool := s.opening.isSome

/-- `src_req`: the pull, only while a `READ` is performed, never with a session closed or a violation latched (R100,
R110). -/
def State.srcReq (s : State) : Bool := s.reading && s.accepts

/-- What the observation port shows (R109). -/
def State.observation (s : State) : Observation where
  k0 := s.keys.k0
  k1 := s.keys.k1
  k2 := s.keys.k2
  state := s.state.code
  skipBytes := s.skipBytes
  compressedSize := s.compressedSize
  value := s.value
  valuePos := s.valuePos
  valueIncrement := s.valueIncrement
  sigIdx := s.sigIdx
  hdrPos := s.hdrPos
  fnLen := s.fnLen
  fault := faultCode s.fault
  sessionOpen := s.sessionOpen
  pwLen := s.pwLen

/-- The next state an outcome holds, if it holds one. -/
def nextOf : Result → Option State
  | .next s => some s
  | .fault _ => none
  | .refused _ => none

end Sys2Proof.Machine
end

