-- ==== Sys2Proof/Machine/Keystream.lean ====
section
/-! DEFINITION. Sys2Proof/Machine/Keystream.lean: the keystream generator (40_keystream.md, spec rules R70 to R76): its
functions over the keys, and the meanings of the `FUNC` rows, which call them. A `FUNC` row has no condition: it cannot
fail. What it returns is kept in `result`, the model's own (log 8); the transitions of the tracker use the functions and
leave `result` alone. -/

namespace Sys2Proof.Machine

/-- `crc32_step` (R71): logical shift, and the table entry of the low byte XOR the byte. -/
def crc32Step (oldCrc : Word) (byte : Byte) : Word := (oldCrc >>> 8) ^^^ crctab (byteOf oldCrc ^^^ byte)

/-- `update_keys` (R72): `k0` first, then `k1` from the new `k0`, then `k2` from the top byte of the new `k1`. -/
def Keys.update (k : Keys) (plain : Byte) : Keys :=
  let k0 := crc32Step k.k0 plain
  let k1 := (k.k1 + (k0 &&& 0xFF#32)) * Config.k1Mul + 1#32
  ⟨k0, k1, crc32Step k.k2 (k1.extractLsb' 24 8)⟩

/-- `temp` of the keystream byte (R73): 16 bits, bit 1 always 1. -/
def Keys.temp (k : Keys) : BitVec 16 := (k.k2 ||| 2#32).setWidth 16

/-- `derive_keystream_byte` (R73): bits 15 to 8 of the exact 32-bit product `temp * (temp XOR 1)`. -/
def Keys.keystreamByte (k : Keys) : Byte :=
  (k.temp.setWidth 32 * (k.temp ^^^ 1#16).setWidth 32).extractLsb' 8 8

/-- The three constants (R5, R74). -/
def Keys.constants : Keys := ⟨Config.keyInit0, Config.keyInit1, Config.keyInit2⟩

/-- `init_keys` (R74): from the constants, `update_keys` once per password byte, byte 0 first. -/
def Keys.init (password : List Byte) : Keys := password.foldl Keys.update Keys.constants

/-- The plaintext of a ciphertext byte (R75), with the keys as they are before it. -/
def Keys.plain (k : Keys) (c : Byte) : Byte := c ^^^ k.keystreamByte

/-- The keys after `decrypt_byte` (R75): updated with the plaintext byte. -/
def Keys.afterDecrypt (k : Keys) (c : Byte) : Keys := k.update (k.plain c)

/-- `CRCTAB` (R70). -/
def execCrctab (index : Byte) (s : State) : Result :=
  .next { s with result := some (.word (crctab index)) }

/-- `CRC32_STEP` (R71). -/
def execCrc32Step (oldCrc : Word) (byte : Byte) (s : State) : Result :=
  .next { s with result := some (.word (crc32Step oldCrc byte)) }

/-- `UPDATE_KEYS` (R72). It returns nothing. -/
def execUpdateKeys (plainByte : Byte) (s : State) : Result :=
  .next (s.withKeys (s.keys.update plainByte))

/-- `DERIVE_KS_BYTE` (R73). It does not write the keys. -/
def execDeriveKsByte (s : State) : Result :=
  .next { s with result := some (.byte s.keys.keystreamByte) }

/-- `INIT_KEYS` (R74). It reads the session's password and returns nothing. -/
def execInitKeys (s : State) : Result :=
  .next (s.withKeys (Keys.init s.pw))

/-- `DECRYPT_BYTE` (R75). -/
def execDecryptByte (c : Byte) (s : State) : Result :=
  .next { s.withKeys (s.keys.afterDecrypt c) with result := some (.byte (s.keys.plain c)) }

end Sys2Proof.Machine
end

