-- ==== Sys2Proof/Machine/Tracker.lean ====
section
/-! DEFINITION. Sys2Proof/Machine/Tracker.lean: the header field tracker (41_tracker.md, spec rules R80 to R99): a meaning
for each `STEP` row, and the step that performs the row the decode word selects. A row's meaning is its pseudocode and its
disposition, for a byte that is accepted (R80). -/

namespace Sys2Proof.Machine

-- Skipping and signature

/-- `SKIP` (R81). -/
def execSkip (b : Byte) (s : State) : Result :=
  s.onEvent fun s => { s with skipBytes := s.skipBytes - 1#32 }.answer (.emit b)

/-- A signature byte that matches and is not the last (R82). -/
def State.matchMore (s : State) (b : Byte) : State :=
  { s with sigIdx := s.sigIdx + 1#2 }.answer (.emit b)

/-- `SIG_M0` (R82). -/
def execSigM0 (b : Byte) (s : State) : Result := s.onEvent (·.matchMore b)

/-- `SIG_M1` (R82). -/
def execSigM1 (b : Byte) (s : State) : Result := s.onEvent (·.matchMore b)

/-- `SIG_M2` (R82). -/
def execSigM2 (b : Byte) (s : State) : Result := s.onEvent (·.matchMore b)

/-- `SIG_M3` (R83). -/
def execSigM3 (b : Byte) (s : State) : Result :=
  s.onEvent fun s =>
    { s with sigIdx := 0#2, skipBytes := Config.skipAfterSignature, state := .flags }.answer (.emit b)

/-- `SIG_MISMATCH` (R84). -/
def execSigMismatch (b : Byte) (s : State) : Result :=
  s.onEvent fun s => { s with sigIdx := 0#2, state := .tail }.answer (.emit b)

-- Flags

/-- `FLAGS_OK` (R85). -/
def execFlagsOk (b : Byte) (s : State) : Result :=
  s.onEvent fun s =>
    { s with
      compressedSize := 0#32
      valuePos := 0#2
      valueIncrement := csizeFirstBorrow Config.csizeRewrite
      skipBytes := Config.skipAfterFlags
      state := .compressedSize }.answer (.emit (clearEncrypted b))

/-- `FLAGS_NOT_ENCRYPTED` (R86, R121). No byte is emitted, so the operand has no other use. -/
def execFlagsNotEncrypted (_b : Byte) (s : State) : Result := s.onEvent (·.raise .notEncrypted)

/-- `FLAGS_STRONG` (R87, R122). -/
def execFlagsStrong (_b : Byte) (s : State) : Result :=
  s.onEvent (·.raise .strongEncryptionUnsupported)

/-- `FLAGS_STREAMED` (R88, R123). -/
def execFlagsStreamed (_b : Byte) (s : State) : Result :=
  s.onEvent (·.raise .unsupportedStreamedFormat)

-- Compressed size

/-- One of the first three bytes of the compressed size, for either value of `CSIZE_REWRITE` (R89). -/
def State.csizeByte (rewrite : Bool) (s : State) (b : Byte) : State :=
  { s with
    compressedSize := s.compressedSize + fieldPart b s.valuePos
    valueIncrement := csizeBorrow rewrite b s.valueIncrement
    valuePos := s.valuePos + 1#2 }.answer (.emit (csizeOut rewrite b s.valueIncrement))

/-- The fourth byte of the compressed size, for either value of `CSIZE_REWRITE` (R90). -/
def State.csizeLast (rewrite : Bool) (s : State) (b : Byte) : State :=
  { s with
    compressedSize := s.compressedSize + (zext32 b <<< 24)
    value := 0#32
    valuePos := 0#2
    valueIncrement := 0#8
    skipBytes := Config.skipAfterCsize
    state := .filenameLength }.answer (.emit (csizeOut rewrite b s.valueIncrement))

/-- `CSIZE_B0` (R89). -/
def execCsizeB0 (b : Byte) (s : State) : Result := s.onEvent (·.csizeByte Config.csizeRewrite b)

/-- `CSIZE_B1` (R89). -/
def execCsizeB1 (b : Byte) (s : State) : Result := s.onEvent (·.csizeByte Config.csizeRewrite b)

/-- `CSIZE_B2` (R89). -/
def execCsizeB2 (b : Byte) (s : State) : Result := s.onEvent (·.csizeByte Config.csizeRewrite b)

/-- `CSIZE_B3` (R90). -/
def execCsizeB3 (b : Byte) (s : State) : Result := s.onEvent (·.csizeLast Config.csizeRewrite b)

-- Filename length and extra-field length

/-- The first byte of a two-byte length, into `value` (R91, R93). -/
def State.lengthLow (s : State) (b : Byte) : State :=
  { s with value := s.value + zext32 b, valuePos := 1#2 }.answer (.emit b)

/-- `value` with the second byte of a two-byte length added (R92, R94). -/
def State.lengthWith (s : State) (b : Byte) : Word := s.value + (zext32 b <<< 8)

/-- `FNLEN_LO` (R91). -/
def execFnlenLo (b : Byte) (s : State) : Result := s.onEvent (·.lengthLow b)

/-- `FNLEN_HI` (R92). -/
def execFnlenHi (b : Byte) (s : State) : Result :=
  s.onEvent fun s =>
    { s with
      fnLen := (s.lengthWith b).setWidth 16
      value := 0#32
      valuePos := 0#2
      state := .extraFieldLength }.answer (.emit b)

/-- `EFLEN_LO` (R93). -/
def execEflenLo (b : Byte) (s : State) : Result := s.onEvent (·.lengthLow b)

/-- `EFLEN_HI` (R94). `value` keeps the extra-field length (D24). -/
def execEflenHi (b : Byte) (s : State) : Result :=
  s.onEvent fun s =>
    { s with
      value := s.lengthWith b
      skipBytes := s.fnLen.setWidth 32 + s.lengthWith b
      valuePos := 0#2
      hdrPos := 0#4
      state := .encryptionHeader }.answer (.emit b)

-- Encryption header

/-- One of the bytes 2 to 11 of the encryption header: decrypted, the plaintext discarded (R96). -/
def State.headerByte (s : State) (b : Byte) : State :=
  { s.withKeys (s.keys.afterDecrypt b) with hdrPos := s.hdrPos + 1#4 }.answer .drop

/-- `ENCHDR_B0` (R95): `init_keys` first, then the byte is decrypted and discarded. -/
def execEnchdrB0 (b : Byte) (s : State) : Result :=
  s.onEvent fun s =>
    { s.withKeys ((Keys.init s.pw).afterDecrypt b) with hdrPos := 1#4 }.answer .drop

/-- `ENCHDR_MID_1` (R96). -/
def execEnchdrMid1 (b : Byte) (s : State) : Result := s.onEvent (·.headerByte b)

/-- `ENCHDR_MID_2_3` (R96). -/
def execEnchdrMid2to3 (b : Byte) (s : State) : Result := s.onEvent (·.headerByte b)

/-- `ENCHDR_MID_4_7` (R96). -/
def execEnchdrMid4to7 (b : Byte) (s : State) : Result := s.onEvent (·.headerByte b)

/-- `ENCHDR_MID_8_9` (R96). -/
def execEnchdrMid8to9 (b : Byte) (s : State) : Result := s.onEvent (·.headerByte b)

/-- `ENCHDR_MID_10` (R96). -/
def execEnchdrMid10 (b : Byte) (s : State) : Result := s.onEvent (·.headerByte b)

/-- The declared size and the parser state once the encryption header is consumed (R97): a declared size of 12 or less
leaves no payload. -/
def State.afterHeader (s : State) : State :=
  if s.compressedSize ≤ Config.encHdrLen then { s with compressedSize := 0#32, state := .signature }
  else { s with compressedSize := s.compressedSize - Config.encHdrLen, state := .data }

/-- `ENCHDR_B11` (R97). -/
def execEnchdrB11 (b : Byte) (s : State) : Result :=
  s.onEvent fun s =>
    { s.withKeys (s.keys.afterDecrypt b) with hdrPos := 0#4 }.afterHeader.answer .drop

-- Data and tail

/-- The payload counter after a data byte, and `Signature` when it reaches zero (R98). -/
def State.countData (s : State) : State :=
  let n := s.compressedSize - 1#32
  { s with compressedSize := n, state := if n = 0#32 then .signature else s.state }

/-- `DATA_BYTE` (R98). -/
def execDataByte (b : Byte) (s : State) : Result :=
  s.onEvent fun s => (s.withKeys (s.keys.afterDecrypt b)).countData.answer (.emit (s.keys.plain b))

/-- `TAIL_BYTE` (R99). -/
def execTailByte (b : Byte) (s : State) : Result := s.onEvent (·.answer (.emit b))

-- The step

/-- The meaning of a `STEP` row (R80). -/
def runRow : StepOp → Byte → State → Result
  | .skip, b, s => execSkip b s
  | .sigM0, b, s => execSigM0 b s
  | .sigM1, b, s => execSigM1 b s
  | .sigM2, b, s => execSigM2 b s
  | .sigM3, b, s => execSigM3 b s
  | .sigMismatch, b, s => execSigMismatch b s
  | .flagsOk, b, s => execFlagsOk b s
  | .flagsNotEncrypted, b, s => execFlagsNotEncrypted b s
  | .flagsStrong, b, s => execFlagsStrong b s
  | .flagsStreamed, b, s => execFlagsStreamed b s
  | .csizeB0, b, s => execCsizeB0 b s
  | .csizeB1, b, s => execCsizeB1 b s
  | .csizeB2, b, s => execCsizeB2 b s
  | .csizeB3, b, s => execCsizeB3 b s
  | .fnlenLo, b, s => execFnlenLo b s
  | .fnlenHi, b, s => execFnlenHi b s
  | .eflenLo, b, s => execEflenLo b s
  | .eflenHi, b, s => execEflenHi b s
  | .enchdrB0, b, s => execEnchdrB0 b s
  | .enchdrMid1, b, s => execEnchdrMid1 b s
  | .enchdrMid2to3, b, s => execEnchdrMid2to3 b s
  | .enchdrMid4to7, b, s => execEnchdrMid4to7 b s
  | .enchdrMid8to9, b, s => execEnchdrMid8to9 b s
  | .enchdrMid10, b, s => execEnchdrMid10 b s
  | .enchdrB11, b, s => execEnchdrB11 b s
  | .dataByte, b, s => execDataByte b s
  | .tailByte, b, s => execTailByte b s

/-- `STEP(b)` (R80): the decode word is formed from the session as it stands and the byte, and the one row that applies is
performed. A decode word that cannot arise has no row (R61 item 6; log 10). -/
def State.stepByte (s : State) (b : Byte) : Result :=
  match selectStep (s.decodeWord b) with
  | .ok op => runRow op b s
  | .error _ => .fault .unreachableDecodeWord

end Sys2Proof.Machine
end

