-- ==== Sys2Proof/Machine/Relay.lean ====
section
/-! DEFINITION. Sys2Proof/Machine/Relay.lean: the byte relay (42_relay.md, spec rules R100 to R112): the source events, the
commands, the reset pin and the observation port. -/

namespace Sys2Proof.Machine

-- Source events

/-- `PUSH` (R104): an accepted byte is one step; otherwise it is not accepted and nothing changes (R110; log 13). -/
def execPush (b : Byte) (s : State) : Result := if s.accepts then s.stepByte b else .next s

/-- `SRC_EOS` (R105). -/
def execSrcEos (s : State) : Result := s.onEvent (·.answer .endOfStream)

/-- `SRC_ERR` (R106). -/
def execSrcErr (e : Config.IoErr) (s : State) : Result := s.onEvent (·.answer (.ioError e))

-- Commands

/-- `OPEN` (R103), with the password its transfers have carried. -/
def execOpen (password : List Byte) (s : State) : Result :=
  if s.sessionOpen then .next (s.respond .refused)
  else .next ({ s.clearSession with pw := password, sessionOpen := true }.respond .ok)

/-- `READ` (R107). Without a session it is refused; after a violation it answers `Fail` again without a pull; otherwise it
is now being performed, and each coming step pulls one event until one gives a disposition other than `Drop` (log 1). -/
def execRead (s : State) : Result :=
  if !s.sessionOpen then .next (s.respond .refused)
  else match s.fault with
    | some v => .next (s.respond (.fail v))
    | none => .next { s with reading := true }

/-- `CLOSE` (R108): the source is released once per session; the answer is always `Ok`. -/
def execClose (s : State) : Result :=
  if s.sessionOpen then
    .next ({ s with sessionOpen := false, releases := s.releases + 1 }.respond .ok)
  else .next (s.respond .ok)

-- Pins

/-- `RESET` (R102): every register at its value after reset; a command in progress, a `READ` or an `OPEN` that waits for
password bytes, is abandoned without a disposition. -/
def execReset (s : State) : Result :=
  .next { s.clearSession with sessionOpen := false, pw := [], reading := false, opening := none }

/-- `OBS` (R109): no register is written. What the port shows is kept in `obsSample`, the model's own (log 9). -/
def execObs (s : State) : Result := .next { s with obsSample := some s.observation }

end Sys2Proof.Machine
end

