-- ==== Sys2Proof/Machine/Dispatch.lean ====
section
/-! DEFINITION. Sys2Proof/Machine/Dispatch.lean: one arm for each operation, in the opcode table's order. -/

namespace Sys2Proof.Machine

def exec (i : Instr) (s : State) : Host.Outcome State Fault Refusal :=
  match i with
  | .crctab index => Sys2Proof.Machine.execCrctab index s
  | .crc32Step oldCrc byte => Sys2Proof.Machine.execCrc32Step oldCrc byte s
  | .updateKeys plainByte => Sys2Proof.Machine.execUpdateKeys plainByte s
  | .deriveKsByte => Sys2Proof.Machine.execDeriveKsByte s
  | .initKeys => Sys2Proof.Machine.execInitKeys s
  | .decryptByte c => Sys2Proof.Machine.execDecryptByte c s
  | .skip b => Sys2Proof.Machine.execSkip b s
  | .sigM0 b => Sys2Proof.Machine.execSigM0 b s
  | .sigM1 b => Sys2Proof.Machine.execSigM1 b s
  | .sigM2 b => Sys2Proof.Machine.execSigM2 b s
  | .sigM3 b => Sys2Proof.Machine.execSigM3 b s
  | .sigMismatch b => Sys2Proof.Machine.execSigMismatch b s
  | .flagsOk b => Sys2Proof.Machine.execFlagsOk b s
  | .flagsNotEncrypted b => Sys2Proof.Machine.execFlagsNotEncrypted b s
  | .flagsStrong b => Sys2Proof.Machine.execFlagsStrong b s
  | .flagsStreamed b => Sys2Proof.Machine.execFlagsStreamed b s
  | .csizeB0 b => Sys2Proof.Machine.execCsizeB0 b s
  | .csizeB1 b => Sys2Proof.Machine.execCsizeB1 b s
  | .csizeB2 b => Sys2Proof.Machine.execCsizeB2 b s
  | .csizeB3 b => Sys2Proof.Machine.execCsizeB3 b s
  | .fnlenLo b => Sys2Proof.Machine.execFnlenLo b s
  | .fnlenHi b => Sys2Proof.Machine.execFnlenHi b s
  | .eflenLo b => Sys2Proof.Machine.execEflenLo b s
  | .eflenHi b => Sys2Proof.Machine.execEflenHi b s
  | .enchdrB0 b => Sys2Proof.Machine.execEnchdrB0 b s
  | .enchdrMid1 b => Sys2Proof.Machine.execEnchdrMid1 b s
  | .enchdrMid2to3 b => Sys2Proof.Machine.execEnchdrMid2to3 b s
  | .enchdrMid4to7 b => Sys2Proof.Machine.execEnchdrMid4to7 b s
  | .enchdrMid8to9 b => Sys2Proof.Machine.execEnchdrMid8to9 b s
  | .enchdrMid10 b => Sys2Proof.Machine.execEnchdrMid10 b s
  | .enchdrB11 b => Sys2Proof.Machine.execEnchdrB11 b s
  | .dataByte b => Sys2Proof.Machine.execDataByte b s
  | .tailByte b => Sys2Proof.Machine.execTailByte b s
  | .push b => Sys2Proof.Machine.execPush b s
  | .srcEos => Sys2Proof.Machine.execSrcEos s
  | .srcErr e => Sys2Proof.Machine.execSrcErr e s
  | .openSession password => Sys2Proof.Machine.execOpen password s
  | .read => Sys2Proof.Machine.execRead s
  | .close => Sys2Proof.Machine.execClose s
  | .reset => Sys2Proof.Machine.execReset s
  | .obs => Sys2Proof.Machine.execObs s

end Sys2Proof.Machine
end

