-- ==== Sys2Proof/Machine/Fetch.lean ====
section
/-! DEFINITION. Sys2Proof/Machine/Fetch.lean: which operation a step runs. ZDC fetches no instruction (spec rule R43): what
it runs next stands at its ports. The reset pin and the observation port come first, one entry a step; a `READ` in progress
pulls one source event; an `OPEN` in progress takes one password byte; otherwise the next command is taken (R100, R101,
R112). -/

namespace Sys2Proof.Machine

/-- A source event is pulled (R33, R107). A reserved event code is answered `Refused` and changes nothing else (R59, R110;
log 11). With no event to deliver the `READ` waits (R129; log 16). -/
def State.fetchEvent (s : State) : Option Instr × State :=
  match s.src with
  | [] => (none, s)
  | w :: ws =>
    match decode (.src w) with
    | .ok i => (some i, { s with src := ws })
    | .error _ => (none, { s with src := ws }.answer .refused)

/-- A command is taken (R100). Code 0 is no command and nothing happens (R58, U12; log 12). An `OPEN` with a password to
come is now in progress; with a session open it is refused without one (R103; log 18). -/
def State.fetchCommand (s : State) : Option Instr × State :=
  match s.cmds with
  | [] => (none, s)
  | c :: cs =>
    match decode (.cmd c []) with
    | .ok i => (some i, { s with cmds := cs })
    | .error .passwordPending =>
      if s.sessionOpen then (some (.openSession []), { s with cmds := cs })
      else (none, { s with cmds := cs, opening := some [] })
    | .error _ => (none, { s with cmds := cs })

/-- The word of an `OPEN` of which these password bytes and then this transfer have been made (R100). -/
def openWord (got : List Byte) (p : PwBeat) : PortWord := .cmd ⟨1#2, false⟩ (got.map (⟨·, false⟩) ++ [p])

/-- A password byte is taken for the `OPEN` in progress, of which `got` are taken already; the one with `pw_last = 1`
completes it and it is performed (R100, R103; log 18). With no byte presented the `OPEN` waits. -/
def State.fetchPassword (s : State) (got : List Byte) : Option Instr × State :=
  match s.pwBeats with
  | [] => (none, s)
  | p :: ps =>
    match decode (openWord got p) with
    | .ok i => (some i, { s with pwBeats := ps, opening := none })
    | .error _ => (none, { s with pwBeats := ps, opening := some (got ++ [p.data]) })

/-- What the channels present: a source event while a `READ` pulls, a password byte while an `OPEN` is in progress, else a
command when ZDC is ready for one. -/
def State.fetchChannel (s : State) : Option Instr × State :=
  if s.srcReq then s.fetchEvent
  else match s.opening with
    | some got => s.fetchPassword got
    | none => if s.cmdReady then s.fetchCommand else (none, s)

/-- The operation the next step runs, if any, and the state it runs in: the one at hand without what has been taken from
the ports. -/
def State.fetch (s : State) : Option Instr × State :=
  match s.pins with
  | [] => s.fetchChannel
  | p :: ps =>
    match decode (.pin p) with
    | .ok i => (some i, { s with pins := ps })
    | .error _ => { s with pins := ps }.fetchChannel

/-- The control position a decode word is formed from (R56), set in a session that accepts events: `state` by `st`, the
position register it goes by from `idx`, and `skip_bytes` zero or not by `skipnz` (a count already there is kept, else 1). -/
def State.withControl (s : State) (dw : DecodeWord) : State :=
  let st := ParserState.ofCode (dwState dw)
  let idx := dwIdx dw
  { s with
    sessionOpen := true
    fault := none
    state := st
    skipBytes := if dwSkipnz dw then (if s.skipBytes = 0#32 then 1#32 else s.skipBytes) else 0#32
    sigIdx := if st = .signature then idx.setWidth 2 else s.sigIdx
    valuePos := if st = .compressedSize ∨ st = .filenameLength ∨ st = .extraFieldLength
      then idx.setWidth 2 else s.valuePos
    hdrPos := if st = .encryptionHeader then idx else s.hdrPos }

/-- A source event placed so that the next step pulls it: a `READ` and nothing else is being performed in a session that
accepts events, and no pin comes before it. -/
def State.withEvent (s : State) (w : SrcWord) : State :=
  { s with
    sessionOpen := true
    fault := none
    reading := true
    opening := none
    pins := .idle :: s.pins
    src := w :: s.src }

/-- A command placed so that the next step takes it, with the password transfers that belong to it. -/
def State.withCommand (s : State) (c : CmdWord) (pw : List PwBeat) : State :=
  { s with
    reading := false
    opening := none
    pins := .idle :: s.pins
    cmds := c :: s.cmds
    pwBeats := pw ++ s.pwBeats }

/-- A word placed where the next step takes it from (log 15). A decode word stands for a control position and a byte: the
position is set and the byte is placed at the source. -/
def State.present (s : State) : PortWord → State
  | .step dw => (s.withControl dw).withEvent ⟨0#2, dwByte dw, 0⟩
  | .cmd c pw => s.withCommand c pw
  | .src w => s.withEvent w
  | .pin p => { s with pins := p :: s.pins }

end Sys2Proof.Machine
end

