-- ==== Sys2Proof/Machine/Step.lean ====
section
/-! DEFINITION. Sys2Proof/Machine/Step.lean: one step of the machine. -/

namespace Sys2Proof.Machine

/-- One step: the operation at the ports runs in the state without what was taken from them; with none, nothing happens
(spec rule R134: between commands ZDC does nothing, and all state survives any wait). -/
def step (s : State) : Host.Outcome State Fault Refusal :=
  match s.fetch with
  | (some i, t) => exec i t
  | (none, t) => .next t

/-- The word of an instruction, numbered as the opcode table numbers it, placed where the next step takes it from. -/
def State.withFetchWord (s : State) (nbits w : Nat) : State := s.present (tableWord nbits w)

end Sys2Proof.Machine
end

