-- ==== Sys2Proof/Safety.lean ====
section
/-! DEFINITION. Sys2Proof/Safety.lean: the terms claims use: the invariants of a session (spec rules R17, R24, R25), a safe
step, a run of input bytes, and the `READ` loop as the spec writes it. -/

namespace Sys2Proof.Machine

/-- The invariants the spec gives (R25; `hdr_pos` at most 11 is R17, `value_increment` 0 is R15 with `CSIZE_REWRITE = 0`),
that a `READ` in progress has a session that accepts events, and that an `OPEN` in progress has none open (R110). -/
structure State.Inv (s : State) : Prop where
  /-- R25 item 1. -/
  sig_idx_zero : s.state ≠ .signature → s.sigIdx = 0#2
  /-- R25 item 2. -/
  hdr_pos_zero : s.hdrPos ≠ 0#4 → s.state = .encryptionHeader ∧ s.skipBytes = 0#32
  /-- R17. -/
  hdr_pos_le : s.hdrPos.toNat ≤ 11
  /-- R25 item 3. -/
  data_pos : s.state = .data → 1 ≤ s.compressedSize.toNat
  /-- R25 item 4. -/
  skip_states : s.skipBytes ≠ 0#32 → s.state = .flags ∨ s.state = .compressedSize ∨
    s.state = .filenameLength ∨ s.state = .encryptionHeader
  /-- R25 item 5, the compressed size. -/
  csize_partial : s.state = .compressedSize → s.compressedSize.toNat < 2 ^ (8 * s.valuePos.toNat)
  /-- R25 item 5, the two lengths. -/
  length_partial : s.state = .filenameLength ∨ s.state = .extraFieldLength →
    s.valuePos.toNat ≤ 1 ∧ s.value.toNat < 2 ^ (8 * s.valuePos.toNat)
  /-- R25 item 7. -/
  skip_le : s.skipBytes.toNat ≤ 131070
  /-- R15. -/
  increment_zero : s.valueIncrement = 0#8
  /-- R110. -/
  reading_accepts : s.reading = true → s.accepts = true
  /-- R103, R110: an `OPEN` is performed only with no session open. -/
  opening_closed : s.opening ≠ none → s.sessionOpen = false

/-- A safe state: its step answers a next state, neither a fault nor a refusal. -/
def State.Safe (s : State) : Prop := ∃ t, step s = .next t

/-- A run of input bytes: each is delivered and accepted in turn (R104). None where one of them ends in no next state. -/
def feed : List Byte → State → Option State
  | [], s => some s
  | b :: bs, s => (nextOf (exec (.push b) s)).bind (feed bs)

/-- The loop of a `READ` over the events the source delivers, as the spec writes it (R107): pull one event; after a `Drop`
go on, after any other disposition stop. A reserved event code is answered `Refused` (R59). With the events used up the
`READ` still waits. -/
def readLoop : List SrcWord → State → State
  | [], s => s
  | w :: ws, s =>
    match decode (.src w) with
    | .error _ => { s with src := ws, out := s.out ++ [.refused], reading := false }
    | .ok i =>
      match exec i { s with src := ws } with
      | .next t => if t.out.getLast? = some .drop then readLoop ws t else t
      | .fault _ => s
      | .refused _ => s

end Sys2Proof.Machine
end

