-- ==== Sys2Proof/Certificates/Slice0/Obligations.lean ====
section
/-! DEFINITION. Sys2Proof/Certificates/Slice0/Obligations.lean: the statements for the provers, each from the rules of the
spec it names. A statement about a row of the tracker takes the row where it is selected: a session open, no violation
latched (R80), and the control position of the row (R57). -/

namespace Sys2Proof.Claims

open Sys2Proof Sys2Proof.Machine

/-- A session is open and no violation is latched: a source event is accepted (R80, R104). -/
def Ready (s : State) : Prop := s.sessionOpen = true ∧ s.fault = none

/-- The state after an event answered with a disposition that ends a `READ` (any but `Drop`). -/
def Answered (s : State) (d : Disposition) : State := { s with out := s.out ++ [d], reading := false }

/-- The dispatch of a step as R80 writes it, "in the order a hardware implementation would test". -/
def dispatchR80 (s : State) (b : Byte) : Instr :=
  if s.skipBytes ≠ 0#32 then .skip b
  else match s.state with
    | .signature =>
      if (s.sigIdx = 0#2 ∧ b = 0x50#8) then .sigM0 b
      else if (s.sigIdx = 1#2 ∧ b = 0x4B#8) then .sigM1 b
      else if (s.sigIdx = 2#2 ∧ b = 0x03#8) then .sigM2 b
      else if (s.sigIdx = 3#2 ∧ b = 0x04#8) then .sigM3 b
      else .sigMismatch b
    | .flags =>
      if b.getLsbD 0 = false then .flagsNotEncrypted b
      else if b.getLsbD 6 = true then .flagsStrong b
      else if b.getLsbD 3 = true then .flagsStreamed b
      else .flagsOk b
    | .compressedSize =>
      if s.valuePos = 3#2 then .csizeB3 b
      else if s.valuePos = 0#2 then .csizeB0 b
      else if s.valuePos = 1#2 then .csizeB1 b
      else .csizeB2 b
    | .filenameLength => if s.valuePos = 1#2 then .fnlenHi b else .fnlenLo b
    | .extraFieldLength => if s.valuePos = 1#2 then .eflenHi b else .eflenLo b
    | .encryptionHeader =>
      if s.hdrPos = 0#4 then .enchdrB0 b
      else if s.hdrPos = 11#4 then .enchdrB11 b
      else if s.hdrPos = 1#4 then .enchdrMid1 b
      else if s.hdrPos.toNat ≤ 3 then .enchdrMid2to3 b
      else if s.hdrPos.toNat ≤ 7 then .enchdrMid4to7 b
      else if s.hdrPos.toNat ≤ 9 then .enchdrMid8to9 b
      else .enchdrMid10 b
    | .data => .dataByte b
    | .tail => .tailByte b

/-- The operation performs this row of the tracker in this state: it is the row, or a `PUSH` of a byte that selects it. -/
def Performs (s : State) (i : Instr) (op : StepOp) : Prop :=
  ∃ b, i = op.instr b ∨ (i = .push b ∧ selectStep (s.decodeWord b) = .ok op)

/-- The operation performs one of these rows. -/
def PerformsOneOf (s : State) (i : Instr) (ops : List StepOp) : Prop := ∃ op ∈ ops, Performs s i op

/-- The operation is an `OPEN` or a `RESET`. -/
def OpensOrResets (i : Instr) : Prop := (∃ p, i = .openSession p) ∨ i = .reset

/-- The keystream byte in natural numbers, as R73 writes it. -/
def keystreamNat (k2 : Nat) : Nat :=
  let temp := (k2 ||| 2) % 65536
  (temp * (temp ^^^ 1)) / 256 % 256

/-- Decrypting a run of bytes, each with the keys the one before it left (R75): the plaintext and the keys after it. -/
def decryptAll : Keys → List Byte → List Byte × Keys
  | k, [] => ([], k)
  | k, c :: cs =>
    let p := c ^^^ k.keystreamByte
    let r := decryptAll (k.update p) cs
    (p :: r.1, r.2)

/-- The inverse: encrypting a run of bytes, the keys updated with the plaintext byte (95_test_vectors.md, introduction). -/
def encryptAll : Keys → List Byte → List Byte
  | _, [] => []
  | k, p :: ps => (p ^^^ k.keystreamByte) :: encryptAll (k.update p) ps

/-- A number as a little-endian field of the stream (R35). -/
def littleEndian : Nat → Nat → List Byte
  | 0, _ => []
  | n + 1, v => BitVec.ofNat 8 v :: littleEndian n (v / 256)

/-- A disposition with the byte of an `Emit` hidden: the code of a `Fail` and the payload of an `IoError` still show. -/
def hideByte : Disposition → Disposition
  | .emit _ => .emit 0#8
  | .drop => .drop
  | .endOfStream => .endOfStream
  | .fail v => .fail v
  | .ioError e => .ioError e
  | .refused => .refused
  | .ok => .ok

/-- Two states agree in everything but what the secrets decide: the keys, the password, the password bytes at the port and
those an `OPEN` in progress has taken, what an observation showed, and the bytes of `Emit` dispositions. The password
transfers end where they do in the other, and the dispositions are the same but for the byte of an `Emit`. -/
def SameButSecrets (s u : State) : Prop :=
  u = { s with
    keys := u.keys, pw := u.pw, opening := u.opening, pwBeats := u.pwBeats, obsSample := u.obsSample, out := u.out } ∧
  u.opening.isSome = s.opening.isSome ∧ u.pwBeats.map PwBeat.last = s.pwBeats.map PwBeat.last ∧
  u.out.map hideByte = s.out.map hideByte

end Sys2Proof.Claims

open Sys2Proof Sys2Proof.Machine Sys2Proof.Claims

-- The keystream generator

/-- R70 (marked general knowledge there, log 24): the printed table is what the algorithm makes: eight conditional
shift-and-XOR steps from each index; and `CRCTAB` returns that entry and changes nothing else. -/
def Obligations.CrcTableIsTheReflectedAlgorithm : Prop :=
  (∀ (i : Byte) (s : State), exec (.crctab i) s = .next { s with result := some (.word
    ((fun r : Word => if r.getLsbD 0 then (r >>> 1) ^^^ 0xEDB88320#32 else r >>> 1)^[8] (i.setWidth 32))) }) ∧
  crctab 1#8 = 0x77073096#32 ∧ crctab 128#8 = 0xEDB88320#32 ∧ crctab 255#8 = 0x2D02EF8D#32

/-- R71: `crc32_step` returns the logical shift by 8 XOR the entry at `(old_crc XOR byte) & 0xFF`, and writes nothing else.
The function result goes to `result`, the model's own field (log 8). -/
def Obligations.Crc32StepReturnsShiftXorTable : Prop :=
  ∀ (old : Word) (b : Byte) (s : State), ∃ r : Word,
    exec (.crc32Step old b) s = .next { s with result := some (.word r) } ∧
    r = BitVec.ofNat 32 (old.toNat / 256) ^^^ crctab (BitVec.ofNat 8 ((old.toNat ^^^ b.toNat) % 256))

/-- R72: the new `k0` feeds `k1`, the new `k1` feeds `k2`, all modulo 2^32; nothing but the keys is written. -/
def Obligations.UpdateKeysWritesKeysInOrder : Prop :=
  ∀ (p : Byte) (s : State), ∃ k0 k1 k2 : Word,
    exec (.updateKeys p) s = .next { s with keys := ⟨k0, k1, k2⟩ } ∧
    k0 = crc32Step s.keys.k0 p ∧
    k1.toNat = ((s.keys.k1.toNat + k0.toNat % 256) * 134775813 + 1) % 2 ^ 32 ∧
    k2 = crc32Step s.keys.k2 (BitVec.ofNat 8 (k1.toNat / 2 ^ 24))

/-- R73: the keystream byte is bits 15 to 8 of the exact product of `temp` and `temp XOR 1`; nothing but `result`, the
model's own field (log 8), is written. -/
def Obligations.KeystreamByteIsMiddleOfProduct : Prop :=
  ∀ s : State, ∃ r : Byte, exec .deriveKsByte s = .next { s with result := some (.byte r) } ∧
    r.toNat = keystreamNat s.keys.k2.toNat

/-- R73, corner cases (derived there): the keystream byte depends on bits 15 to 2 of `k2` alone. -/
def Obligations.KeystreamByteUsesOnlyBits15To2 : Prop :=
  ∀ k k' : Keys, k.k2.extractLsb' 2 14 = k'.k2.extractLsb' 2 14 → k.keystreamByte = k'.keystreamByte

/-- R74: with no password byte the keys are the three constants, and one more password byte is one more `update_keys`. -/
def Obligations.InitKeysFoldsThePassword : Prop :=
  (∀ s : State, s.pw = [] →
    exec .initKeys s = .next { s with keys := ⟨0x12345678#32, 0x23456789#32, 0x34567890#32⟩ }) ∧
  (∀ (s : State) (p : List Byte) (b : Byte), s.pw = p ++ [b] →
    ∃ u v, exec .initKeys { s with pw := p } = .next u ∧ exec (.updateKeys b) u = .next v ∧
      exec .initKeys s = .next { s with keys := v.keys })

/-- R75: the plaintext byte is the ciphertext byte XOR what `derive_keystream_byte` returns before it, and the keys are what
`update_keys` of the plaintext byte makes of them. The result goes to `result`, the model's own field (log 8). -/
def Obligations.DecryptByteThenUpdatesWithPlaintext : Prop :=
  ∀ (c : Byte) (s : State), ∃ (ks : Byte) (u v : State),
    exec .deriveKsByte s = .next u ∧ u.result = some (.byte ks) ∧
    exec (.updateKeys (c ^^^ ks)) s = .next v ∧
    exec (.decryptByte c) s = .next { s with keys := v.keys, result := some (.byte (c ^^^ ks)) }

-- The tracker: each row

/-- R81. -/
def Obligations.SkipRelaysAndCountsDown : Prop :=
  ∀ (s : State) (b : Byte), Ready s → s.skipBytes ≠ 0#32 →
    exec (.skip b) s = .next (Answered { s with skipBytes := BitVec.ofNat 32 (s.skipBytes.toNat - 1) } (.emit b))

/-- R82, R83: the signature bytes that match; the fourth sets the skip over the version bytes and goes to `Flags`. -/
def Obligations.SignatureMatchAdvances : Prop :=
  ∀ s : State, Ready s → s.skipBytes = 0#32 → s.state = .signature →
    (s.sigIdx = 0#2 → exec (.sigM0 0x50#8) s = .next (Answered { s with sigIdx := 1#2 } (.emit 0x50#8))) ∧
    (s.sigIdx = 1#2 → exec (.sigM1 0x4B#8) s = .next (Answered { s with sigIdx := 2#2 } (.emit 0x4B#8))) ∧
    (s.sigIdx = 2#2 → exec (.sigM2 0x03#8) s = .next (Answered { s with sigIdx := 3#2 } (.emit 0x03#8))) ∧
    (s.sigIdx = 3#2 → exec (.sigM3 0x04#8) s =
      .next (Answered { s with sigIdx := 0#2, skipBytes := 2#32, state := .flags } (.emit 0x04#8)))

/-- R84: at each of the four positions. -/
def Obligations.SignatureMismatchGoesToTail : Prop :=
  ∀ (s : State) (b : Byte), Ready s → s.skipBytes = 0#32 → s.state = .signature →
    [0x50#8, 0x4B#8, 0x03#8, 0x04#8][s.sigIdx.toNat]? ≠ some b →
    exec (.sigMismatch b) s = .next (Answered { s with sigIdx := 0#2, state := .tail } (.emit b))

/-- R85: bit 0 cleared, every other bit as it came. -/
def Obligations.FlagsOkClearsOnlyBit0 : Prop :=
  ∀ (s : State) (b : Byte), Ready s → s.skipBytes = 0#32 → s.state = .flags →
    b.getLsbD 0 = true → b.getLsbD 6 = false → b.getLsbD 3 = false →
    ∃ e : Byte, (∀ j, j < 8 → e.getLsbD j = if j = 0 then false else b.getLsbD j) ∧
      exec (.flagsOk b) s = .next (Answered { s with
        compressedSize := 0#32
        valuePos := 0#2
        valueIncrement := if Config.csizeRewrite then 12#8 else 0#8
        skipBytes := 11#32
        state := .compressedSize } (.emit e))

/-- R86, R87, R88, R126: a failing flags byte latches its code, answers `Fail` with it and emits no byte. R126 asks that no
claim rest on the other registers after a violation; that they are not written is what it says, and this statement alone
says it. -/
def Obligations.FlagsViolationLatchesAndAnswersFail : Prop :=
  ∀ (s : State) (b : Byte), Ready s → s.skipBytes = 0#32 → s.state = .flags →
    (b.getLsbD 0 = false →
      exec (.flagsNotEncrypted b) s =
        .next (Answered { s with fault := some .notEncrypted } (.fail .notEncrypted))) ∧
    (b.getLsbD 0 = true → b.getLsbD 6 = true →
      exec (.flagsStrong b) s =
        .next (Answered { s with fault := some .strongEncryptionUnsupported } (.fail .strongEncryptionUnsupported))) ∧
    (b.getLsbD 0 = true → b.getLsbD 6 = false → b.getLsbD 3 = true →
      exec (.flagsStreamed b) s =
        .next (Answered { s with fault := some .unsupportedStreamedFormat } (.fail .unsupportedStreamedFormat))) ∧
    Violation.notEncrypted.code = 1#3 ∧ Violation.strongEncryptionUnsupported.code = 2#3 ∧
    Violation.unsupportedStreamedFormat.code = 3#3

/-- R121, R122, R123: which violation a pushed flags byte raises, by its bits 0, 6 and 3. -/
def Obligations.PushedFlagsByteRaisesByPriority : Prop :=
  ∀ (s : State) (b : Byte), Ready s → s.skipBytes = 0#32 → s.state = .flags →
    ∃ t, exec (.push b) s = .next t ∧
      (t.fault = some .notEncrypted ↔ b.getLsbD 0 = false) ∧
      (t.fault = some .strongEncryptionUnsupported ↔ b.getLsbD 0 = true ∧ b.getLsbD 6 = true) ∧
      (t.fault = some .unsupportedStreamedFormat ↔
        b.getLsbD 0 = true ∧ b.getLsbD 6 = false ∧ b.getLsbD 3 = true) ∧
      (t.fault = none ↔ b.getLsbD 0 = true ∧ b.getLsbD 6 = false ∧ b.getLsbD 3 = false)

/-- R89, for the value of `CSIZE_REWRITE` the configuration has (the spec's is 0: log 5). -/
def Obligations.FirstSizeBytesAccumulate : Prop :=
  ∀ (s : State) (b : Byte), Ready s → s.skipBytes = 0#32 → s.state = .compressedSize →
    ∀ t : State, t = Answered { s with
        compressedSize := BitVec.ofNat 32 (s.compressedSize.toNat + b.toNat * 2 ^ (8 * s.valuePos.toNat))
        valueIncrement := if Config.csizeRewrite then (if b.toNat < s.valueIncrement.toNat then 1#8 else 0#8)
          else s.valueIncrement
        valuePos := BitVec.ofNat 2 (s.valuePos.toNat + 1) }
        (.emit (if Config.csizeRewrite then BitVec.ofNat 8 (b.toNat + 256 - s.valueIncrement.toNat) else b)) →
      (s.valuePos = 0#2 → exec (.csizeB0 b) s = .next t) ∧
      (s.valuePos = 1#2 → exec (.csizeB1 b) s = .next t) ∧
      (s.valuePos = 2#2 → exec (.csizeB2 b) s = .next t)

/-- R90, for the value of `CSIZE_REWRITE` the configuration has (the spec's is 0: log 5). -/
def Obligations.FourthSizeByteGoesToFilenameLength : Prop :=
  ∀ (s : State) (b : Byte), Ready s → s.skipBytes = 0#32 → s.state = .compressedSize → s.valuePos = 3#2 →
    exec (.csizeB3 b) s = .next (Answered { s with
      compressedSize := BitVec.ofNat 32 (s.compressedSize.toNat + b.toNat * 2 ^ 24)
      value := 0#32
      valuePos := 0#2
      valueIncrement := 0#8
      skipBytes := 4#32
      state := .filenameLength }
      (.emit (if Config.csizeRewrite then BitVec.ofNat 8 (b.toNat + 256 - s.valueIncrement.toNat) else b)))

/-- R91, R93. -/
def Obligations.LowLengthByteGoesIntoValue : Prop :=
  ∀ (s : State) (b : Byte), Ready s → s.skipBytes = 0#32 → s.valuePos = 0#2 →
    ∀ t : State, t = Answered { s with
        value := BitVec.ofNat 32 (s.value.toNat + b.toNat)
        valuePos := 1#2 } (.emit b) →
      (s.state = .filenameLength → exec (.fnlenLo b) s = .next t) ∧
      (s.state = .extraFieldLength → exec (.eflenLo b) s = .next t)

/-- R92. -/
def Obligations.HighFilenameLengthByteCompletesFnLen : Prop :=
  ∀ (s : State) (b : Byte), Ready s → s.skipBytes = 0#32 → s.state = .filenameLength → s.valuePos = 1#2 →
    exec (.fnlenHi b) s = .next (Answered { s with
      fnLen := BitVec.ofNat 16 (s.value.toNat + b.toNat * 256)
      value := 0#32
      valuePos := 0#2
      state := .extraFieldLength } (.emit b))

/-- R94: what is skipped is the sum of the two lengths, and `value` keeps the second. -/
def Obligations.HighExtraLengthByteSetsSkip : Prop :=
  ∀ (s : State) (b : Byte), Ready s → s.skipBytes = 0#32 → s.state = .extraFieldLength → s.valuePos = 1#2 →
    exec (.eflenHi b) s = .next (Answered { s with
      value := BitVec.ofNat 32 (s.value.toNat + b.toNat * 256)
      skipBytes := BitVec.ofNat 32 (s.fnLen.toNat + (s.value.toNat + b.toNat * 256))
      valuePos := 0#2
      hdrPos := 0#4
      state := .encryptionHeader } (.emit b))

/-- R95: `init_keys`, then `decrypt_byte` with its plaintext discarded; the disposition is `Drop`. -/
def Obligations.FirstHeaderByteInitialisesKeys : Prop :=
  ∀ (s : State) (b : Byte), Ready s → s.skipBytes = 0#32 → s.state = .encryptionHeader → s.hdrPos = 0#4 →
    ∃ u v, exec .initKeys s = .next u ∧ exec (.decryptByte b) u = .next v ∧
      exec (.enchdrB0 b) s = .next { s with keys := v.keys, hdrPos := 1#4, out := s.out ++ [.drop] }

/-- R96: the five rows of `ENCHDR_MID`. -/
def Obligations.MiddleHeaderBytesDecryptAndDrop : Prop :=
  ∀ (s : State) (b : Byte), Ready s → s.skipBytes = 0#32 → s.state = .encryptionHeader →
    ∃ v, exec (.decryptByte b) s = .next v ∧
      ∀ t : State, t = { s with
          keys := v.keys
          hdrPos := BitVec.ofNat 4 (s.hdrPos.toNat + 1)
          out := s.out ++ [.drop] } →
        (s.hdrPos = 1#4 → exec (.enchdrMid1 b) s = .next t) ∧
        (2 ≤ s.hdrPos.toNat ∧ s.hdrPos.toNat ≤ 3 → exec (.enchdrMid2to3 b) s = .next t) ∧
        (4 ≤ s.hdrPos.toNat ∧ s.hdrPos.toNat ≤ 7 → exec (.enchdrMid4to7 b) s = .next t) ∧
        (8 ≤ s.hdrPos.toNat ∧ s.hdrPos.toNat ≤ 9 → exec (.enchdrMid8to9 b) s = .next t) ∧
        (s.hdrPos = 10#4 → exec (.enchdrMid10 b) s = .next t)

/-- R97: twelve or less declared leaves no payload and goes to `Signature`; more goes to `Data` with twelve less. -/
def Obligations.LastHeaderByteSaturates : Prop :=
  ∀ (s : State) (b : Byte), Ready s → s.skipBytes = 0#32 → s.state = .encryptionHeader → s.hdrPos = 11#4 →
    ∃ v, exec (.decryptByte b) s = .next v ∧
      exec (.enchdrB11 b) s = .next { s with
        keys := v.keys
        hdrPos := 0#4
        compressedSize := BitVec.ofNat 32 (s.compressedSize.toNat - 12)
        state := if s.compressedSize.toNat ≤ 12 then .signature else .data
        out := s.out ++ [.drop] }

/-- R98. -/
def Obligations.DataByteEmitsPlaintextAndCounts : Prop :=
  ∀ (s : State) (b : Byte), Ready s → s.skipBytes = 0#32 → s.state = .data → 1 ≤ s.compressedSize.toNat →
    ∃ p v, exec (.decryptByte b) s = .next v ∧ v.result = some (.byte p) ∧
      exec (.dataByte b) s = .next (Answered { s with
        keys := v.keys
        compressedSize := BitVec.ofNat 32 (s.compressedSize.toNat - 1)
        state := if s.compressedSize.toNat = 1 then .signature else .data } (.emit p))

/-- R99. -/
def Obligations.TailByteIsRelayedUnchanged : Prop :=
  ∀ (s : State) (b : Byte), Ready s → s.skipBytes = 0#32 → s.state = .tail →
    exec (.tailByte b) s = .next (Answered s (.emit b))

-- The tracker: selection

/-- R80, R104: an accepted byte performs the one row that R80's order of tests names, at every control position the
invariants allow. -/
def Obligations.PushPerformsTheRowOfR80 : Prop :=
  ∀ (s : State) (b : Byte), s.Inv → Ready s → exec (.push b) s = exec (dispatchR80 s b) s

/-- R61 item 6, R57: a byte is without a row exactly at a control position that cannot arise (log 10). -/
def Obligations.PushStopsOnlyWhereNoRowApplies : Prop :=
  ∀ (s : State) (b : Byte), Ready s →
    (exec (.push b) s = .fault .unreachableDecodeWord ↔
      s.skipBytes = 0#32 ∧
        ((s.state = .filenameLength ∨ s.state = .extraFieldLength) ∧ 1 < s.valuePos.toNat ∨
          s.state = .encryptionHeader ∧ 11 < s.hdrPos.toNat))

/-- R56, R61 item 6: no decode word has two rows of the table, and the words the decoder refuses are those that cannot arise
(log 10). -/
def Obligations.StepRowsPartitionTheDecodeWords : Prop :=
  (stepRows.Pairwise fun r r' => ∀ dw : DecodeWord, ¬(r.applies dw = true ∧ r'.applies dw = true)) ∧
  ∀ dw : DecodeWord, (∃ e, decodeStep dw = .error e) ↔
    dwSkipnz dw = false ∧
      ((dwState dw = 0#3 ∧ 3 < (dwIdx dw).toNat) ∨ (dwState dw = 2#3 ∧ 3 < (dwIdx dw).toNat) ∨
        ((dwState dw = 3#3 ∨ dwState dw = 4#3) ∧ 1 < (dwIdx dw).toNat) ∨
        (dwState dw = 5#3 ∧ 11 < (dwIdx dw).toNat))

/-- A decoded operation is well formed: its operand is one its row admits (R57). -/
def Obligations.DecodedOperationsAreWellFormed : Prop :=
  ∀ (w : PortWord) (i : Instr), decode w = .ok i → i.wellFormed = true

/-- Decoding an encoded well-formed operation gives it back, for every operation that has a word, with every operand; the
`FUNC` rows alone have none (R64). -/
def Obligations.DecodeOfEncodeIsTheOperation : Prop :=
  ∀ i : Instr, i.wellFormed = true →
    (∀ w, encode i = some w → decode w = .ok i) ∧
    (encode i = none ↔ (∃ x, i = .crctab x) ∨ (∃ x y, i = .crc32Step x y) ∨ (∃ x, i = .updateKeys x) ∨
      i = .deriveKsByte ∨ i = .initKeys ∨ ∃ x, i = .decryptByte x)

/-- A few words written out from the encodings (R56, R58, R59; program P1): they decode to what they stand for. -/
def Obligations.SampleWordsDecode : Prop :=
  decode (.step 0x014B#16) = .ok (.sigM1 0x4B#8) ∧
  decode (.step 0x1041#16) = .ok (.flagsStrong 0x41#8) ∧
  decode (.step 0xA0F7#16) = .ok (.skip 0xF7#8) ∧
  decode (.step 0x5BAA#16) = .ok (.enchdrB11 0xAA#8) ∧
  decode (.cmd ⟨1#2, false⟩ [⟨0x70#8, false⟩, ⟨0x77#8, true⟩]) = .ok (.openSession [0x70#8, 0x77#8]) ∧
  decode (.src ⟨2#2, 0#8, 9⟩) = .ok (.srcErr 9)

-- The relay

/-- R104, R34: an accepted byte gives exactly one disposition, an `Emit`, a `Drop` or a `Fail`, and touches nothing outside
the session registers. -/
def Obligations.PushGivesOneDisposition : Prop :=
  ∀ (s : State) (b : Byte), s.Inv → Ready s →
    ∃ t d, exec (.push b) s = .next t ∧ t.out = s.out ++ [d] ∧
      ((∃ e, d = .emit e) ∨ d = .drop ∨ ∃ v, d = .fail v) ∧
      (t.reading = true ↔ s.reading = true ∧ d = .drop) ∧
      t.sessionOpen = true ∧ t.pw = s.pw ∧ t.opening = s.opening ∧ t.pins = s.pins ∧ t.cmds = s.cmds ∧
      t.pwBeats = s.pwBeats ∧ t.src = s.src ∧ t.releases = s.releases ∧ t.result = s.result ∧ t.obsSample = s.obsSample

/-- R105, R106: the end and an error of the source are passed on and write no register. -/
def Obligations.EndAndErrorPassThrough : Prop :=
  ∀ s : State, Ready s →
    exec .srcEos s = .next (Answered s .endOfStream) ∧
    ∀ e, exec (.srcErr e) s = .next (Answered s (.ioError e))

/-- R103: an `OPEN` puts every register at its value after `OPEN` (R27); with a session open it is refused and changes
nothing. -/
def Obligations.OpenStartsAFreshSession : Prop :=
  ∀ (s : State) (p : List Byte),
    (s.sessionOpen = false → exec (.openSession p) s = .next { s with
      sessionOpen := true, fault := none, state := .signature, skipBytes := 0#32, compressedSize := 0#32,
      value := 0#32, valuePos := 0#2, valueIncrement := 0#8, sigIdx := 0#2, hdrPos := 0#4, fnLen := 0#16,
      keys := ⟨0#32, 0#32, 0#32⟩, pw := p, out := s.out ++ [.ok] }) ∧
    (s.sessionOpen = true → exec (.openSession p) s = .next { s with out := s.out ++ [.refused] })

/-- R107, the first lines of its pseudocode: without a session `Refused`, with a violation latched `Fail` again and no pull,
else the `READ` is being performed. -/
def Obligations.ReadStartsOrAnswersAtOnce : Prop :=
  ∀ s : State,
    (s.sessionOpen = false → exec .read s = .next { s with out := s.out ++ [.refused] }) ∧
    (∀ v, s.sessionOpen = true → s.fault = some v → exec .read s = .next { s with out := s.out ++ [.fail v] }) ∧
    (Ready s → exec .read s = .next { s with reading := true })

/-- R107: a `READ` in progress is the loop of its pseudocode over the events the source delivers, one event a step: within
as many steps as there are events it has answered, with what the loop leaves; or the events are used up and it waits. -/
def Obligations.ReadIsTheLoopOverSourceEvents : Prop :=
  ∀ s : State, s.Inv → Ready s → s.reading = true → s.pins = [] →
    ∃ n, n ≤ s.src.length ∧ Host.Core.run Sys2Proof.core n s = .next (readLoop s.src s) ∧
      ((readLoop s.src s).reading = true → (readLoop s.src s).src = [])

/-- R108: the source is released once, the answer is always `Ok`, and no register but `session_open` is written. -/
def Obligations.CloseReleasesOnce : Prop :=
  ∀ s : State,
    (s.sessionOpen = true → exec .close s =
      .next { s with sessionOpen := false, releases := s.releases + 1, out := s.out ++ [.ok] }) ∧
    (s.sessionOpen = false → exec .close s = .next { s with out := s.out ++ [.ok] })

/-- R102: reset puts every register at its value after reset (R27), abandons a command in progress (a `READ`, or an `OPEN`
that waits for password bytes) and gives no disposition, whenever the pin is pulled. What still stands at the ports and what has gone out is not ZDC's to change (log 17). -/
def Obligations.ResetAbandonsEverything : Prop :=
  ∀ s : State,
    exec .reset s = .next { State.reset with
      pins := s.pins, cmds := s.cmds, pwBeats := s.pwBeats, src := s.src, out := s.out, releases := s.releases,
      result := s.result, obsSample := s.obsSample } ∧
    ∀ ps, s.pins = .rst :: ps → step s = .next { State.reset with
      pins := ps, cmds := s.cmds, pwBeats := s.pwBeats, src := s.src, out := s.out, releases := s.releases,
      result := s.result, obsSample := s.obsSample }

/-- R27: the values after reset. -/
def Obligations.ResetValues : Prop :=
  State.reset.sessionOpen = false ∧ State.reset.fault = none ∧ State.reset.state = .signature ∧
  State.reset.skipBytes = 0#32 ∧ State.reset.compressedSize = 0#32 ∧ State.reset.value = 0#32 ∧
  State.reset.valuePos = 0#2 ∧ State.reset.valueIncrement = 0#8 ∧ State.reset.sigIdx = 0#2 ∧
  State.reset.hdrPos = 0#4 ∧ State.reset.fnLen = 0#16 ∧ State.reset.keys = ⟨0#32, 0#32, 0#32⟩ ∧
  State.reset.pwLen = 0

/-- R109: an observation writes no register, shows each at its port, and does not show the password bytes. Where the sample
is kept is the model's own field (log 9). -/
def Obligations.ObservationIsReadOnlyAndHidesPassword : Prop :=
  ∀ s : State,
    (∃ o : Observation, exec .obs s = .next { s with obsSample := some o } ∧
      o.k0 = s.keys.k0 ∧ o.k1 = s.keys.k1 ∧ o.k2 = s.keys.k2 ∧ ParserState.ofCode o.state = s.state ∧
      o.skipBytes = s.skipBytes ∧ o.compressedSize = s.compressedSize ∧ o.value = s.value ∧
      o.valuePos = s.valuePos ∧ o.valueIncrement = s.valueIncrement ∧ o.sigIdx = s.sigIdx ∧
      o.hdrPos = s.hdrPos ∧ o.fnLen = s.fnLen ∧ o.sessionOpen = s.sessionOpen ∧ o.pwLen = s.pw.length ∧
      (o.fault = 0#3 ↔ s.fault = none) ∧ ∀ v, (o.fault = v.code ↔ s.fault = some v)) ∧
    ∀ p : List Byte, p.length = s.pw.length → ({ s with pw := p } : State).observation = s.observation

/-- R110: where an event has no meaning it changes nothing; a reserved event code is answered `Refused`. That the reserved
event is used up and ends the `READ` is the model's reading (log 11). -/
def Obligations.EventsWithoutMeaningChangeNothing : Prop :=
  (∀ (s : State) (i : Instr), ¬Ready s → ((∃ b, i = .push b) ∨ i = .srcEos ∨ ∃ e, i = .srcErr e) →
    exec i s = .next s) ∧
  (∀ (s : State) (w : SrcWord) (ws : List SrcWord), Ready s → s.reading = true → s.pins = [] →
    s.src = w :: ws → w.kind = 3#2 → step s = .next (Answered { s with src := ws } .refused))

-- The machine

/-- A step runs the operation the word at the ports decodes to, in the state without that word: a pin first, then the event
of a `READ` in progress, a password byte of an `OPEN` in progress, else a command; and a byte runs the row its decode word
decodes to. An `OPEN` with a password (R100, R103): its command starts it with no byte taken, or is refused with a session
open and takes none; each byte goes behind those taken before it; the last one performs it with all of them, byte 0 first
(log 18). Command code 0 does nothing (log 12). That a step takes one word is the model's granularity (log 1), the lists it takes it from are the
model's (log 2), and that a pin comes before the channels is its order (log 17); R64 and R100 say what the words are. -/
def Obligations.StepRunsTheDecodedOperation : Prop :=
  (∀ (s : State) (p : Pin) (ps : List Pin) (i : Instr), s.pins = p :: ps → decode (.pin p) = .ok i →
    step s = exec i { s with pins := ps }) ∧
  (∀ (s : State) (w : SrcWord) (ws : List SrcWord) (i : Instr), s.pins.head?.getD .idle = .idle →
    s.reading = true → Ready s → s.src = w :: ws → decode (.src w) = .ok i →
    step s = exec i { s with pins := s.pins.tail, src := ws }) ∧
  (∀ (s : State) (c : CmdWord) (cs : List CmdWord) (i : Instr), s.pins.head?.getD .idle = .idle →
    s.reading = false → s.opening = none → s.cmds = c :: cs → decode (.cmd c []) = .ok i →
    step s = exec i { s with pins := s.pins.tail, cmds := cs }) ∧
  (∀ (s : State) (c : CmdWord) (cs : List CmdWord), s.pins.head?.getD .idle = .idle →
    s.reading = false → s.opening = none → s.cmds = c :: cs →
    (c.code = 1#2 → c.pwEmpty = false → s.sessionOpen = false →
      step s = .next { s with pins := s.pins.tail, cmds := cs, opening := some [] }) ∧
    (c.code = 1#2 → c.pwEmpty = false → s.sessionOpen = true →
      step s = .next { s with pins := s.pins.tail, cmds := cs, out := s.out ++ [.refused] }) ∧
    (c.code = 0#2 → step s = .next { s with pins := s.pins.tail, cmds := cs })) ∧
  (∀ (s : State) (got : List Byte) (p : PwBeat) (ps : List PwBeat), s.pins.head?.getD .idle = .idle →
    s.reading = false → s.opening = some got → s.pwBeats = p :: ps →
    (p.last = false →
      step s = .next { s with pins := s.pins.tail, pwBeats := ps, opening := some (got ++ [p.data]) }) ∧
    (p.last = true → decode (openWord got p) = .ok (.openSession (got ++ [p.data])) ∧
      step s = exec (.openSession (got ++ [p.data])) { s with
        pins := s.pins.tail, pwBeats := ps, opening := none })) ∧
  (∀ (s : State) (b : Byte) (i : Instr), Ready s → decode (.step (s.decodeWord b)) = .ok i →
    exec (.push b) s = exec i s)

/-- A word of the opcode table's numbering, placed by `withFetchWord`, is what the next step runs, in the state it was
placed in without it: its pin, command and event are taken off again, the position and the session it set stay; and a decode
word is placed at a position from which, with its byte, that operation's row is selected (logs 14, 15). -/
def Obligations.PlacedWordRunsNext : Prop :=
  ∀ (s : State) (nbits w : Nat) (i : Instr), decodeTableWord nbits w = some i →
    step (s.withFetchWord nbits w) =
      exec i { s.withFetchWord nbits w with pins := s.pins, cmds := s.cmds, src := s.src } ∧
    (8 < nbits → decode (.step ((s.withFetchWord nbits w).decodeWord (dwByte (BitVec.ofNat 16 w)))) = .ok i)

/-- R129, R134: with no event from the source a `READ` in progress waits, with no password byte an `OPEN` in progress waits,
and with nothing at the ports nothing happens; the state survives (log 16). -/
def Obligations.WaitingChangesNothing : Prop :=
  ∀ s : State, s.pins = [] → (s.reading = true → s.src = []) → (s.opening ≠ none → s.pwBeats = []) →
    (s.reading = false → s.opening = none → s.cmds = []) → step s = .next s

/-- R25: the invariants hold after reset. -/
def Obligations.InvariantHoldsAtReset : Prop := State.reset.Inv

/-- R25: from every state that meets the invariants, a step keeps them; and `Tail` is left only by `OPEN`, with the session
closed, and by reset, which closes it (R25 item 6, R99). -/
def Obligations.StepKeepsInvariant : Prop :=
  ∀ s t : State, s.Inv → step s = .next t →
    t.Inv ∧ (s.state = .tail → t.state = .tail ∨
      (t.state = .signature ∧ (s.sessionOpen = false ∨ t.sessionOpen = false)))

/-- From every state that meets the invariants a step answers a next state: no input, command or violation stops ZDC. -/
def Obligations.InvariantStatesAreSafe : Prop := ∀ s : State, s.Inv → s.Safe

/-- 10_state.md section 9: who writes each register. A `STEP` row counts whether performed as itself or through a `PUSH`. -/
def Obligations.OnlyTheirWritersWriteRegisters : Prop :=
  ∀ (s t : State) (i : Instr), exec i s = .next t →
    (t.keys ≠ s.keys → OpensOrResets i ∨ (∃ p, i = .updateKeys p) ∨ i = .initKeys ∨ (∃ c, i = .decryptByte c) ∨
      PerformsOneOf s i [.enchdrB0, .enchdrMid1, .enchdrMid2to3, .enchdrMid4to7, .enchdrMid8to9, .enchdrMid10,
        .enchdrB11, .dataByte]) ∧
    (t.state ≠ s.state → OpensOrResets i ∨ PerformsOneOf s i
      [.sigM3, .sigMismatch, .flagsOk, .csizeB3, .fnlenHi, .eflenHi, .enchdrB11, .dataByte]) ∧
    (t.skipBytes ≠ s.skipBytes → OpensOrResets i ∨ PerformsOneOf s i [.skip, .sigM3, .flagsOk, .csizeB3, .eflenHi]) ∧
    (t.compressedSize ≠ s.compressedSize → OpensOrResets i ∨ PerformsOneOf s i
      [.flagsOk, .csizeB0, .csizeB1, .csizeB2, .csizeB3, .enchdrB11, .dataByte]) ∧
    (t.value ≠ s.value → OpensOrResets i ∨ PerformsOneOf s i [.csizeB3, .fnlenLo, .fnlenHi, .eflenLo, .eflenHi]) ∧
    (t.valuePos ≠ s.valuePos → OpensOrResets i ∨ PerformsOneOf s i
      [.flagsOk, .csizeB0, .csizeB1, .csizeB2, .csizeB3, .fnlenLo, .fnlenHi, .eflenLo, .eflenHi]) ∧
    (t.valueIncrement ≠ s.valueIncrement → OpensOrResets i ∨ PerformsOneOf s i
      [.flagsOk, .csizeB0, .csizeB1, .csizeB2, .csizeB3]) ∧
    (t.sigIdx ≠ s.sigIdx → OpensOrResets i ∨ PerformsOneOf s i [.sigM0, .sigM1, .sigM2, .sigM3, .sigMismatch]) ∧
    (t.hdrPos ≠ s.hdrPos → OpensOrResets i ∨ PerformsOneOf s i
      [.eflenHi, .enchdrB0, .enchdrMid1, .enchdrMid2to3, .enchdrMid4to7, .enchdrMid8to9, .enchdrMid10, .enchdrB11]) ∧
    (t.fnLen ≠ s.fnLen → OpensOrResets i ∨ PerformsOneOf s i [.fnlenHi]) ∧
    (t.sessionOpen ≠ s.sessionOpen → OpensOrResets i ∨ i = .close) ∧
    (t.pw ≠ s.pw → OpensOrResets i)

/-- R19: `fault` is set by the three failing flags bytes and by nothing else, cleared only by `OPEN` and by reset, and while
it is set no source event is accepted. -/
def Obligations.FaultLatchSetAndCleared : Prop :=
  ∀ (s t : State) (i : Instr), exec i s = .next t →
    (∀ v, t.fault = some v → s.fault = some v ∨
      s.fault = none ∧ PerformsOneOf s i [.flagsNotEncrypted, .flagsStrong, .flagsStreamed]) ∧
    (s.fault ≠ none → t.fault = none → OpensOrResets i) ∧
    (s.fault ≠ none → ((∃ b, i = .push b) ∨ i = .srcEos ∨ ∃ e, i = .srcErr e) → t = s) ∧
    (faultCode t.fault = 0#3 ∨ faultCode t.fault = 1#3 ∨ faultCode t.fault = 2#3 ∨ faultCode t.fault = 3#3)

/-- R32, R43: the password is immutable while a session is open; only a reset, which ends the session, changes it. -/
def Obligations.PasswordIsImmutableInASession : Prop :=
  ∀ s t : State, step s = .next t → s.sessionOpen = true → t.sessionOpen = true → t.pw = s.pw

/-- R128: nothing resumes a faulted session: a step keeps the latch and pulls no event, or it is a reset, or the session was
already closed and a new one is opened. -/
def Obligations.FaultedSessionStaysFaulted : Prop :=
  ∀ (s t : State) (v : Violation), step s = .next t → s.fault = some v →
    t.src = s.src ∧
      (t.fault = some v ∨ (t.fault = none ∧ t.sessionOpen = false) ∨
        (s.sessionOpen = false ∧ t.sessionOpen = true ∧ t.fault = none ∧ t.state = .signature))

/-- R24, the source's two invariants: in `Data` the count strictly decreases, and the state goes to `Signature` exactly when
it reaches zero; the accumulator is reset on entry to the three collecting states. -/
def Obligations.SourceInvariantsHold : Prop :=
  ∀ (s : State) (b : Byte), s.Inv → Ready s →
    ∃ t, exec (.push b) s = .next t ∧
      (s.state = .data → t.compressedSize.toNat + 1 = s.compressedSize.toNat ∧
        (t.state = .signature ↔ t.compressedSize.toNat = 0) ∧ (t.state = .data ↔ t.compressedSize.toNat ≠ 0)) ∧
      (t.state ≠ s.state →
        (t.state = .compressedSize → t.compressedSize = 0#32 ∧ t.valuePos = 0#2) ∧
        (t.state = .filenameLength → t.value = 0#32 ∧ t.valuePos = 0#2) ∧
        (t.state = .extraFieldLength → t.value = 0#32 ∧ t.valuePos = 0#2))

-- Runs of bytes

/-- R13, R81: as many bytes as `skip_bytes` counts are relayed unchanged, and the state is consulted only after them. -/
def Obligations.SkippedRunIsRelayed : Prop :=
  ∀ (s : State) (bs : List Byte), Ready s → bs ≠ [] → bs.length = s.skipBytes.toNat →
    feed bs s = some { s with skipBytes := 0#32, out := s.out ++ bs.map .emit, reading := false }

/-- R53, R89, R90: the four size bytes leave their little-endian value in `compressed_size` and go out unmodified. The
configuration's `CSIZE_REWRITE = 0` is used (log 5). -/
def Obligations.SizeFieldIsLittleEndian : Prop :=
  ∀ (s : State) (n : Nat), s.Inv → Ready s → s.state = .compressedSize → s.skipBytes = 0#32 → s.valuePos = 0#2 →
    n < 2 ^ 32 →
    feed (littleEndian 4 n) s = some { s with
      compressedSize := BitVec.ofNat 32 n, value := 0#32, valuePos := 0#2, skipBytes := 4#32, state := .filenameLength,
      out := s.out ++ (littleEndian 4 n).map .emit, reading := false }

/-- R53, R91 to R94: the two length fields make `skip_bytes` their sum, from any reachable start of the first. -/
def Obligations.LengthFieldsSumToSkip : Prop :=
  ∀ (s : State) (n m : Nat), s.Inv → Ready s → s.state = .filenameLength → s.skipBytes = 0#32 → s.valuePos = 0#2 →
    n < 2 ^ 16 → m < 2 ^ 16 →
    feed (littleEndian 2 n ++ littleEndian 2 m) s = some { s with
      fnLen := BitVec.ofNat 16 n, value := BitVec.ofNat 32 m, valuePos := 0#2, hdrPos := 0#4,
      skipBytes := BitVec.ofNat 32 (n + m), state := .encryptionHeader,
      out := s.out ++ (littleEndian 2 n ++ littleEndian 2 m).map .emit, reading := false }

/-- R54, R95 to R97: the twelve bytes of an encryption header are dropped, whatever they are, and leave the keys that
`init_keys` and decrypting them make. -/
def Obligations.EncryptionHeaderIsSwallowed : Prop :=
  ∀ (s : State) (h : List Byte), s.Inv → Ready s → s.state = .encryptionHeader → s.skipBytes = 0#32 →
    s.hdrPos = 0#4 → h.length = 12 →
    feed h s = some { s with
      keys := (decryptAll (Keys.init s.pw) h).2,
      compressedSize := BitVec.ofNat 32 (s.compressedSize.toNat - 12),
      state := if s.compressedSize.toNat ≤ 12 then .signature else .data,
      out := s.out ++ List.replicate 12 .drop }

/-- Source properties S2 and S3, R98: a payload of as many bytes as are left is decrypted and emitted byte by byte, whatever
the keys, and the tracker is back at `Signature`; and what an encryptor with the same keys made of a plaintext decrypts to
that plaintext. -/
def Obligations.PayloadIsDecryptedInFull : Prop :=
  (∀ (s : State) (cs : List Byte), s.Inv → Ready s → s.state = .data → cs.length = s.compressedSize.toNat →
    feed cs s = some { s with
      keys := (decryptAll s.keys cs).2, compressedSize := 0#32, state := .signature,
      out := s.out ++ (decryptAll s.keys cs).1.map .emit, reading := false }) ∧
  ∀ (k : Keys) (ps : List Byte), (decryptAll k (encryptAll k ps)).1 = ps

/-- Source property S7, R82, R84, R99: a stream that does not start with the signature, whichever of its first four bytes
differs, comes out as it went in and raises no violation: it is given up at the first byte that differs, for good; one that
ends before any byte differs leaves the signature as far matched. No other register changes. -/
def Obligations.NonZipStreamIsRelayedUnchanged : Prop :=
  ∀ (s : State) (bs : List Byte), Ready s → s.skipBytes = 0#32 → s.state = .signature → s.sigIdx = 0#2 →
    ¬[0x50#8, 0x4B#8, 0x03#8, 0x04#8].IsPrefix bs →
    ∃ t, feed bs s = some t ∧ t.out = s.out ++ bs.map .emit ∧
      t = { s with state := t.state, sigIdx := t.sigIdx, out := t.out, reading := t.reading } ∧
      (bs.IsPrefix [0x50#8, 0x4B#8, 0x03#8, 0x04#8] → t.state = .signature ∧ t.sigIdx.toNat = bs.length) ∧
      (¬bs.IsPrefix [0x50#8, 0x4B#8, 0x03#8, 0x04#8] → t.state = .tail ∧ t.sigIdx = 0#2)

/-- R51, R54, R62, R111: a whole entry. From the start of an entry, its bytes come out as they went in, but for bit 0 of the
flags byte, the twelve bytes of the encryption header, which are absent, and the payload, which is decrypted under keys
made anew from the password; and the tracker stands at the start of the next entry. A declared size below twelve is treated
as twelve (D11). The configuration's `CSIZE_REWRITE = 0` is used (log 5). -/
def Obligations.EntryIsRelayedDecrypted : Prop :=
  ∀ (s : State) (version mid usize name extra header payload : List Byte) (flags : Byte) (size : Nat),
    s.Inv → Ready s → s.state = .signature → s.sigIdx = 0#2 →
    version.length = 2 → mid.length = 11 → usize.length = 4 → header.length = 12 →
    name.length < 2 ^ 16 → extra.length < 2 ^ 16 → size < 2 ^ 32 → payload.length = size - 12 →
    flags.getLsbD 0 = true → flags.getLsbD 6 = false → flags.getLsbD 3 = false →
    let front := [0x50#8, 0x4B#8, 0x03#8, 0x04#8] ++ version
    let back := mid ++ littleEndian 4 size ++ usize ++ littleEndian 2 name.length ++ littleEndian 2 extra.length ++
      name ++ extra
    let keys := (decryptAll (Keys.init s.pw) header).2
    ∃ t, feed (front ++ [flags] ++ back ++ header ++ payload) s = some t ∧
      outputBytes t.out =
        outputBytes s.out ++ front ++ [flags &&& 0xFE#8] ++ back ++ (decryptAll keys payload).1 ∧
      t.state = .signature ∧ t.sigIdx = 0#2 ∧ t.skipBytes = 0#32 ∧ t.compressedSize = 0#32 ∧
      t.keys = (decryptAll keys payload).2 ∧ t.pw = s.pw ∧ Ready t ∧ t.Inv

-- Secrets and sessions

/-- Source property S3, R131 item 1: what the tracker does is independent of keys and password. Two states that agree but
for these, and for the emitted bytes, still do after a step of each, whatever step it is: a wrong password changes bytes,
never where the tracker stands, how much is consumed or which errors are reported, with which code or payload. -/
def Obligations.ControlIsIndependentOfSecrets : Prop :=
  ∀ s u : State, SameButSecrets s u →
    (∀ t, step s = .next t → ∃ v, step u = .next v ∧ SameButSecrets t v) ∧
    (∀ f, step s = .fault f → step u = .fault f)

/-- R103, R133, source property S1: a session inherits nothing. Two machines, whatever went before in each, that open a
session with the same password and take the same bytes give the same dispositions and stand at the same register values. -/
def Obligations.SessionsInheritNothing : Prop :=
  ∀ (s u s' u' : State) (p bs : List Byte), s.sessionOpen = false → u.sessionOpen = false →
    exec (.openSession p) s = .next s' → exec (.openSession p) u = .next u' →
    ∃ t v ds, feed bs s' = some t ∧ feed bs u' = some v ∧
      t.out = s'.out ++ ds ∧ v.out = u'.out ++ ds ∧ t.observation = v.observation

/-- R24, the second half of the source's second invariant: the accumulator is never read outside the states that collect
it. Two sessions that differ in `value` outside `FilenameLength` and `ExtraFieldLength` answer every byte alike, differ in
nothing else after it, and no longer differ once a collecting state is entered; the same for `value_pos` outside the three
collecting states. -/
def Obligations.AccumulatorIsReadOnlyWhereCollected : Prop :=
  ∀ (s : State) (b : Byte), s.Inv → Ready s →
    (∀ v : Word, s.state ≠ .filenameLength → s.state ≠ .extraFieldLength →
      ∃ t w, exec (.push b) s = .next t ∧ exec (.push b) { s with value := v } = .next { t with value := w } ∧
        (t.state = .filenameLength ∨ t.state = .extraFieldLength → w = t.value)) ∧
    (∀ p : BitVec 2, s.state ≠ .compressedSize → s.state ≠ .filenameLength → s.state ≠ .extraFieldLength →
      ∃ t q, exec (.push b) s = .next t ∧ exec (.push b) { s with valuePos := p } = .next { t with valuePos := q } ∧
        (t.state = .compressedSize ∨ t.state = .filenameLength ∨ t.state = .extraFieldLength → q = t.valuePos))
end

