-- ==== Sys2Proof/Laws/Decode.lean ====
section
/-! SUPPORT. Sys2Proof/Laws/Decode.lean: the fields of a decode word, and the password transfers. -/

namespace Sys2Proof

/-- Each bit of a high byte followed by a low byte. -/
theorem byteAppend_getLsbD (hi b : Byte) (i : Nat) :
    (hi ++ b : BitVec 16).getLsbD i = if i < 8 then b.getLsbD i else hi.getLsbD (i - 8) :=
  BitVec.getLsbD_append

/-- Each bit of a decode word is a bit of one of its fields (R56). -/
theorem pack_getLsbD (n : Bool) (st : BitVec 3) (idx : BitVec 4) (b : Byte) (i : Nat) :
    (packDecodeWord n st idx b).getLsbD i =
      if i < 8 then b.getLsbD i
      else if i < 12 then idx.getLsbD (i - 8)
      else if i < 15 then st.getLsbD (i - 12)
      else (BitVec.ofBool n).getLsbD (i - 15) := by
  have h1 : (packDecodeWord n st idx b).getLsbD i = _ :=
    BitVec.getLsbD_append (x := BitVec.ofBool n ++ st ++ idx) (y := b) (i := i)
  rw [h1, BitVec.getLsbD_append, BitVec.getLsbD_append]
  by_cases a8 : i < 8
  · simp [a8]
  · by_cases a12 : i < 12
    · simp [a8, a12, show i - 8 < 4 by omega]
    · by_cases a15 : i < 15
      · simp [a8, a12, a15, show ¬(i - 8 < 4) by omega, show i - 8 - 4 = i - 12 by omega,
          show i - 12 < 3 by omega]
      · simp [a8, a12, a15, show ¬(i - 8 < 4) by omega, show ¬(i - 8 - 4 < 3) by omega,
          show i - 8 - 4 - 3 = i - 15 by omega]

@[simp] theorem dwByte_append (hi b : Byte) : dwByte (hi ++ b : BitVec 16) = b := by
  apply BitVec.eq_of_getLsbD_eq
  intro i hi'
  simp only [dwByte, BitVec.getLsbD_extractLsb', hi', byteAppend_getLsbD]
  simp [hi']

@[simp] theorem dwByte_pack (n : Bool) (st : BitVec 3) (idx : BitVec 4) (b : Byte) :
    dwByte (packDecodeWord n st idx b) = b := by
  apply BitVec.eq_of_getLsbD_eq
  intro i hi
  simp only [dwByte, BitVec.getLsbD_extractLsb', hi, pack_getLsbD]
  simp [hi]

@[simp] theorem dwIdx_pack (n : Bool) (st : BitVec 3) (idx : BitVec 4) (b : Byte) :
    dwIdx (packDecodeWord n st idx b) = idx := by
  apply BitVec.eq_of_getLsbD_eq
  intro i hi
  simp only [dwIdx, BitVec.getLsbD_extractLsb', hi, pack_getLsbD]
  simp [show 8 + i < 12 by omega]

@[simp] theorem dwState_pack (n : Bool) (st : BitVec 3) (idx : BitVec 4) (b : Byte) :
    dwState (packDecodeWord n st idx b) = st := by
  apply BitVec.eq_of_getLsbD_eq
  intro i hi
  simp only [dwState, BitVec.getLsbD_extractLsb', hi, pack_getLsbD]
  simp [show ¬(12 + i < 12) by omega, show 12 + i < 15 by omega, show ¬(12 + i < 8) by omega]

@[simp] theorem dwSkipnz_pack (n : Bool) (st : BitVec 3) (idx : BitVec 4) (b : Byte) :
    dwSkipnz (packDecodeWord n st idx b) = n := by
  unfold dwSkipnz
  rw [pack_getLsbD]
  cases n <;> rfl

/-- A decode word is its four fields (R56). -/
theorem pack_fields (dw : DecodeWord) :
    packDecodeWord (dwSkipnz dw) (dwState dw) (dwIdx dw) (dwByte dw) = dw := by
  apply BitVec.eq_of_getLsbD_eq
  intro i hi
  rw [pack_getLsbD]
  by_cases a8 : i < 8
  · simp [a8, dwByte]
  · by_cases a12 : i < 12
    · simp [a8, a12, dwIdx, show i - 8 < 4 by omega, show 8 + (i - 8) = i by omega]
    · by_cases a15 : i < 15
      · simp [a8, a12, a15, dwState, show i - 12 < 3 by omega, show 12 + (i - 12) = i by omega]
      · obtain rfl : i = 15 := by omega
        cases h : dwSkipnz dw <;> simp_all [dwSkipnz]

/-- The transfers of a password that has a byte carry it (R100). -/
theorem takePassword_passwordBeats (p : List Byte) (h : p ≠ []) :
    takePassword (passwordBeats p) = some p := by
  induction p with
  | nil => exact absurd rfl h
  | cons b bs ih =>
    cases bs with
    | nil => rfl
    | cons c cs => simp [passwordBeats, takePassword, ih]

/-- Everything the password channel can answer (R100): none while no transfer is the last one. -/
theorem takePassword_eq_none (ps : List PwBeat) : takePassword ps = none ↔ ∀ p ∈ ps, p.last = false := by
  induction ps with
  | nil => simp [takePassword]
  | cons p ps ih => cases h : p.last <;> simp [takePassword, h, ih]

/-- What a row that applies says of the selected operation: it is the row's, or the fallback's. -/
theorem selectStep_cases {dw : DecodeWord} {op : StepOp} (h : selectStep dw = .ok op) :
    (∃ r ∈ stepRows, r.applies dw = true ∧ r.op = op) ∨ (fallbackRow.applies dw = true ∧ op = .sigMismatch) := by
  unfold selectStep at h
  split at h
  · next r hr =>
    refine .inl ⟨r, List.mem_of_find?_eq_some hr, by simpa using List.find?_some hr, ?_⟩
    injection h
  · split at h
    · next hf => injection h with h; exact .inr ⟨hf, h.symm⟩
    · cases h

theorem decodeStep_eq_ok {dw : DecodeWord} {i : Instr} :
    decodeStep dw = .ok i ↔ ∃ op, selectStep dw = .ok op ∧ i = op.instr (dwByte dw) := by
  unfold decodeStep
  cases selectStep dw with
  | ok op =>
    constructor
    · intro h; exact ⟨op, rfl, by injection h with h; exact h.symm⟩
    · rintro ⟨op', h, rfl⟩; injection h with h; subst h; rfl
  | error e =>
    constructor
    · intro h; cases h
    · rintro ⟨op', h, -⟩; cases h

end Sys2Proof
end

