-- ==== Sys2Proof/Laws/State.lean ====
section
/-! SUPPORT. Sys2Proof/Laws/State.lean: what each named update of the state does to each field, so that no proof unfolds
one. -/

namespace Sys2Proof.Machine.State

variable (s : State)

@[simp] theorem respond_sessionOpen (d : Disposition) : (s.respond d).sessionOpen = s.sessionOpen := rfl
@[simp] theorem respond_fault (d : Disposition) : (s.respond d).fault = s.fault := rfl
@[simp] theorem respond_state (d : Disposition) : (s.respond d).state = s.state := rfl
@[simp] theorem respond_skipBytes (d : Disposition) : (s.respond d).skipBytes = s.skipBytes := rfl
@[simp] theorem respond_compressedSize (d : Disposition) : (s.respond d).compressedSize = s.compressedSize := rfl
@[simp] theorem respond_value (d : Disposition) : (s.respond d).value = s.value := rfl
@[simp] theorem respond_valuePos (d : Disposition) : (s.respond d).valuePos = s.valuePos := rfl
@[simp] theorem respond_valueIncrement (d : Disposition) : (s.respond d).valueIncrement = s.valueIncrement := rfl
@[simp] theorem respond_sigIdx (d : Disposition) : (s.respond d).sigIdx = s.sigIdx := rfl
@[simp] theorem respond_hdrPos (d : Disposition) : (s.respond d).hdrPos = s.hdrPos := rfl
@[simp] theorem respond_fnLen (d : Disposition) : (s.respond d).fnLen = s.fnLen := rfl
@[simp] theorem respond_keys (d : Disposition) : (s.respond d).keys = s.keys := rfl
@[simp] theorem respond_pw (d : Disposition) : (s.respond d).pw = s.pw := rfl
@[simp] theorem respond_reading (d : Disposition) : (s.respond d).reading = s.reading := rfl
@[simp] theorem respond_opening (d : Disposition) : (s.respond d).opening = s.opening := rfl
@[simp] theorem respond_pins (d : Disposition) : (s.respond d).pins = s.pins := rfl
@[simp] theorem respond_cmds (d : Disposition) : (s.respond d).cmds = s.cmds := rfl
@[simp] theorem respond_pwBeats (d : Disposition) : (s.respond d).pwBeats = s.pwBeats := rfl
@[simp] theorem respond_src (d : Disposition) : (s.respond d).src = s.src := rfl
@[simp] theorem respond_out (d : Disposition) : (s.respond d).out = s.out ++ [d] := rfl
@[simp] theorem respond_releases (d : Disposition) : (s.respond d).releases = s.releases := rfl
@[simp] theorem respond_result (d : Disposition) : (s.respond d).result = s.result := rfl
@[simp] theorem respond_obsSample (d : Disposition) : (s.respond d).obsSample = s.obsSample := rfl

@[simp] theorem answer_sessionOpen (d : Disposition) : (s.answer d).sessionOpen = s.sessionOpen := rfl
@[simp] theorem answer_fault (d : Disposition) : (s.answer d).fault = s.fault := rfl
@[simp] theorem answer_state (d : Disposition) : (s.answer d).state = s.state := rfl
@[simp] theorem answer_skipBytes (d : Disposition) : (s.answer d).skipBytes = s.skipBytes := rfl
@[simp] theorem answer_compressedSize (d : Disposition) : (s.answer d).compressedSize = s.compressedSize := rfl
@[simp] theorem answer_value (d : Disposition) : (s.answer d).value = s.value := rfl
@[simp] theorem answer_valuePos (d : Disposition) : (s.answer d).valuePos = s.valuePos := rfl
@[simp] theorem answer_valueIncrement (d : Disposition) : (s.answer d).valueIncrement = s.valueIncrement := rfl
@[simp] theorem answer_sigIdx (d : Disposition) : (s.answer d).sigIdx = s.sigIdx := rfl
@[simp] theorem answer_hdrPos (d : Disposition) : (s.answer d).hdrPos = s.hdrPos := rfl
@[simp] theorem answer_fnLen (d : Disposition) : (s.answer d).fnLen = s.fnLen := rfl
@[simp] theorem answer_keys (d : Disposition) : (s.answer d).keys = s.keys := rfl
@[simp] theorem answer_pw (d : Disposition) : (s.answer d).pw = s.pw := rfl
@[simp] theorem answer_reading (d : Disposition) : (s.answer d).reading = (s.reading && (d == .drop)) := rfl
@[simp] theorem answer_opening (d : Disposition) : (s.answer d).opening = s.opening := rfl
@[simp] theorem answer_pins (d : Disposition) : (s.answer d).pins = s.pins := rfl
@[simp] theorem answer_cmds (d : Disposition) : (s.answer d).cmds = s.cmds := rfl
@[simp] theorem answer_pwBeats (d : Disposition) : (s.answer d).pwBeats = s.pwBeats := rfl
@[simp] theorem answer_src (d : Disposition) : (s.answer d).src = s.src := rfl
@[simp] theorem answer_out (d : Disposition) : (s.answer d).out = s.out ++ [d] := rfl
@[simp] theorem answer_releases (d : Disposition) : (s.answer d).releases = s.releases := rfl
@[simp] theorem answer_result (d : Disposition) : (s.answer d).result = s.result := rfl
@[simp] theorem answer_obsSample (d : Disposition) : (s.answer d).obsSample = s.obsSample := rfl

@[simp] theorem raise_sessionOpen (v : Violation) : (s.raise v).sessionOpen = s.sessionOpen := rfl
@[simp] theorem raise_fault (v : Violation) : (s.raise v).fault = some v := rfl
@[simp] theorem raise_state (v : Violation) : (s.raise v).state = s.state := rfl
@[simp] theorem raise_skipBytes (v : Violation) : (s.raise v).skipBytes = s.skipBytes := rfl
@[simp] theorem raise_compressedSize (v : Violation) : (s.raise v).compressedSize = s.compressedSize := rfl
@[simp] theorem raise_value (v : Violation) : (s.raise v).value = s.value := rfl
@[simp] theorem raise_valuePos (v : Violation) : (s.raise v).valuePos = s.valuePos := rfl
@[simp] theorem raise_valueIncrement (v : Violation) : (s.raise v).valueIncrement = s.valueIncrement := rfl
@[simp] theorem raise_sigIdx (v : Violation) : (s.raise v).sigIdx = s.sigIdx := rfl
@[simp] theorem raise_hdrPos (v : Violation) : (s.raise v).hdrPos = s.hdrPos := rfl
@[simp] theorem raise_fnLen (v : Violation) : (s.raise v).fnLen = s.fnLen := rfl
@[simp] theorem raise_keys (v : Violation) : (s.raise v).keys = s.keys := rfl
@[simp] theorem raise_pw (v : Violation) : (s.raise v).pw = s.pw := rfl
@[simp] theorem raise_reading (v : Violation) : (s.raise v).reading = false := by simp [State.raise, State.answer]
@[simp] theorem raise_opening (v : Violation) : (s.raise v).opening = s.opening := rfl
@[simp] theorem raise_pins (v : Violation) : (s.raise v).pins = s.pins := rfl
@[simp] theorem raise_cmds (v : Violation) : (s.raise v).cmds = s.cmds := rfl
@[simp] theorem raise_pwBeats (v : Violation) : (s.raise v).pwBeats = s.pwBeats := rfl
@[simp] theorem raise_src (v : Violation) : (s.raise v).src = s.src := rfl
@[simp] theorem raise_out (v : Violation) : (s.raise v).out = s.out ++ [.fail v] := rfl
@[simp] theorem raise_releases (v : Violation) : (s.raise v).releases = s.releases := rfl
@[simp] theorem raise_result (v : Violation) : (s.raise v).result = s.result := rfl
@[simp] theorem raise_obsSample (v : Violation) : (s.raise v).obsSample = s.obsSample := rfl

@[simp] theorem withKeys_sessionOpen (k : Keys) : (s.withKeys k).sessionOpen = s.sessionOpen := rfl
@[simp] theorem withKeys_fault (k : Keys) : (s.withKeys k).fault = s.fault := rfl
@[simp] theorem withKeys_state (k : Keys) : (s.withKeys k).state = s.state := rfl
@[simp] theorem withKeys_skipBytes (k : Keys) : (s.withKeys k).skipBytes = s.skipBytes := rfl
@[simp] theorem withKeys_compressedSize (k : Keys) : (s.withKeys k).compressedSize = s.compressedSize := rfl
@[simp] theorem withKeys_value (k : Keys) : (s.withKeys k).value = s.value := rfl
@[simp] theorem withKeys_valuePos (k : Keys) : (s.withKeys k).valuePos = s.valuePos := rfl
@[simp] theorem withKeys_valueIncrement (k : Keys) : (s.withKeys k).valueIncrement = s.valueIncrement := rfl
@[simp] theorem withKeys_sigIdx (k : Keys) : (s.withKeys k).sigIdx = s.sigIdx := rfl
@[simp] theorem withKeys_hdrPos (k : Keys) : (s.withKeys k).hdrPos = s.hdrPos := rfl
@[simp] theorem withKeys_fnLen (k : Keys) : (s.withKeys k).fnLen = s.fnLen := rfl
@[simp] theorem withKeys_keys (k : Keys) : (s.withKeys k).keys = k := rfl
@[simp] theorem withKeys_pw (k : Keys) : (s.withKeys k).pw = s.pw := rfl
@[simp] theorem withKeys_reading (k : Keys) : (s.withKeys k).reading = s.reading := rfl
@[simp] theorem withKeys_opening (k : Keys) : (s.withKeys k).opening = s.opening := rfl
@[simp] theorem withKeys_pins (k : Keys) : (s.withKeys k).pins = s.pins := rfl
@[simp] theorem withKeys_cmds (k : Keys) : (s.withKeys k).cmds = s.cmds := rfl
@[simp] theorem withKeys_pwBeats (k : Keys) : (s.withKeys k).pwBeats = s.pwBeats := rfl
@[simp] theorem withKeys_src (k : Keys) : (s.withKeys k).src = s.src := rfl
@[simp] theorem withKeys_out (k : Keys) : (s.withKeys k).out = s.out := rfl
@[simp] theorem withKeys_releases (k : Keys) : (s.withKeys k).releases = s.releases := rfl
@[simp] theorem withKeys_result (k : Keys) : (s.withKeys k).result = s.result := rfl
@[simp] theorem withKeys_obsSample (k : Keys) : (s.withKeys k).obsSample = s.obsSample := rfl

@[simp] theorem clearSession_sessionOpen : (s.clearSession).sessionOpen = s.sessionOpen := rfl
@[simp] theorem clearSession_fault : (s.clearSession).fault = none := rfl
@[simp] theorem clearSession_state : (s.clearSession).state = .signature := rfl
@[simp] theorem clearSession_skipBytes : (s.clearSession).skipBytes = 0#32 := rfl
@[simp] theorem clearSession_compressedSize : (s.clearSession).compressedSize = 0#32 := rfl
@[simp] theorem clearSession_value : (s.clearSession).value = 0#32 := rfl
@[simp] theorem clearSession_valuePos : (s.clearSession).valuePos = 0#2 := rfl
@[simp] theorem clearSession_valueIncrement : (s.clearSession).valueIncrement = 0#8 := rfl
@[simp] theorem clearSession_sigIdx : (s.clearSession).sigIdx = 0#2 := rfl
@[simp] theorem clearSession_hdrPos : (s.clearSession).hdrPos = 0#4 := rfl
@[simp] theorem clearSession_fnLen : (s.clearSession).fnLen = 0#16 := rfl
@[simp] theorem clearSession_keys : (s.clearSession).keys = ⟨0#32, 0#32, 0#32⟩ := rfl
@[simp] theorem clearSession_pw : (s.clearSession).pw = s.pw := rfl
@[simp] theorem clearSession_reading : (s.clearSession).reading = s.reading := rfl
@[simp] theorem clearSession_opening : (s.clearSession).opening = s.opening := rfl
@[simp] theorem clearSession_pins : (s.clearSession).pins = s.pins := rfl
@[simp] theorem clearSession_cmds : (s.clearSession).cmds = s.cmds := rfl
@[simp] theorem clearSession_pwBeats : (s.clearSession).pwBeats = s.pwBeats := rfl
@[simp] theorem clearSession_src : (s.clearSession).src = s.src := rfl
@[simp] theorem clearSession_out : (s.clearSession).out = s.out := rfl
@[simp] theorem clearSession_releases : (s.clearSession).releases = s.releases := rfl
@[simp] theorem clearSession_result : (s.clearSession).result = s.result := rfl
@[simp] theorem clearSession_obsSample : (s.clearSession).obsSample = s.obsSample := rfl

end Sys2Proof.Machine.State
end

