-- ==== Sys2Proof/Laws/Ops.lean ====
section
/-! SUPPORT. Sys2Proof/Laws/Ops.lean: one lemma for each shared operation, saying what it does. -/

namespace Sys2Proof.Machine

variable (s : State)

theorem State.accepts_iff : s.accepts = true ↔ s.sessionOpen = true ∧ s.fault = none := by
  cases h : s.fault <;> simp [State.accepts, h]

theorem State.srcReq_iff : s.srcReq = true ↔ s.reading = true ∧ s.sessionOpen = true ∧ s.fault = none := by
  simp [State.srcReq, State.accepts_iff]

@[simp] theorem State.cmdReady_eq : s.cmdReady = (!s.reading && s.opening.isNone) := rfl

@[simp] theorem State.accepts_answer (d : Disposition) : (s.answer d).accepts = s.accepts := rfl

@[simp] theorem State.accepts_respond (d : Disposition) : (s.respond d).accepts = s.accepts := rfl

@[simp] theorem State.accepts_withKeys (k : Keys) : (s.withKeys k).accepts = s.accepts := rfl

@[simp] theorem State.accepts_raise (v : Violation) : (s.raise v).accepts = false := by
  simp [State.accepts]

/-- An accepted event is performed (R80). -/
theorem State.onEvent_of_accepts (f : State → State) (h : s.accepts = true) :
    s.onEvent f = .next (f s) := by
  simp [State.onEvent, h]

/-- An event that cannot be accepted changes nothing (R110). -/
theorem State.onEvent_of_not_accepts (f : State → State) (h : s.accepts = false) :
    s.onEvent f = .next s := by
  simp [State.onEvent, h]

/-- Everything `onEvent` can answer. -/
theorem State.onEvent_cases {f : State → State} {t : State} (h : s.onEvent f = .next t) :
    (s.accepts = true ∧ t = f s) ∨ (s.accepts = false ∧ t = s) := by
  cases ha : s.accepts <;> simp_all [State.onEvent]

@[simp] theorem State.answer_emit_reading (b : Byte) : (s.answer (.emit b)).reading = false := by
  simp

@[simp] theorem State.answer_drop_reading : (s.answer .drop).reading = s.reading := by
  simp

@[simp] theorem nextOf_next (t : State) : nextOf (.next t) = some t := rfl

theorem nextOf_eq_some {r : Result} {t : State} : nextOf r = some t ↔ r = .next t := by
  cases r <;> simp [nextOf]

/-- With `CSIZE_REWRITE = 0` a size byte passes unmodified (R89). -/
@[simp] theorem csizeOut_false (b inc : Byte) : csizeOut false b inc = b := rfl

@[simp] theorem csizeBorrow_false (b inc : Byte) : csizeBorrow false b inc = inc := rfl

@[simp] theorem csizeFirstBorrow_false : csizeFirstBorrow false = 0#8 := rfl

/-- The value of a field part is the byte times 256 to the power of its position (R35, R53). -/
theorem fieldPart_toNat (b : Byte) (p : BitVec 2) : (fieldPart b p).toNat = b.toNat * 2 ^ (8 * p.toNat) := by
  have hp := p.isLt
  have hb := b.isLt
  have h1 : (2 : Nat) ^ (8 * p.toNat) ≤ 2 ^ 24 := Nat.pow_le_pow_right (by omega) (by omega)
  have h2 : b.toNat * 2 ^ (8 * p.toNat) ≤ 255 * 2 ^ 24 := Nat.mul_le_mul (by omega) h1
  simp only [fieldPart, zext32, BitVec.toNat_shiftLeft, BitVec.toNat_setWidth, Nat.shiftLeft_eq]
  rw [Nat.mod_eq_of_lt (a := b.toNat) (by omega), Nat.mod_eq_of_lt (by omega)]

/-- What the flags checks answer (R125). -/
theorem flagsViolation_cases (b : Byte) :
    (flagsViolation b = some .notEncrypted ∧ b.getLsbD 0 = false) ∨
    (flagsViolation b = some .strongEncryptionUnsupported ∧ b.getLsbD 0 = true ∧ b.getLsbD 6 = true) ∨
    (flagsViolation b = some .unsupportedStreamedFormat ∧
      b.getLsbD 0 = true ∧ b.getLsbD 6 = false ∧ b.getLsbD 3 = true) ∨
    (flagsViolation b = none ∧ b.getLsbD 0 = true ∧ b.getLsbD 6 = false ∧ b.getLsbD 3 = false) := by
  unfold flagsViolation flagEncrypted flagStrong flagStreamed
  generalize b.getLsbD 0 = x, b.getLsbD 6 = y, b.getLsbD 3 = z
  revert x y z
  decide

@[simp] theorem ParserState.ofCode_code (p : ParserState) : ParserState.ofCode p.code = p := by
  cases p <;> rfl

@[simp] theorem ParserState.code_ofCode (c : BitVec 3) : (ParserState.ofCode c).code = c := by
  revert c; decide

theorem ParserState.code_injective {p q : ParserState} (h : p.code = q.code) : p = q := by
  rw [← ofCode_code p, h, ofCode_code]

@[simp] theorem outputBytes_append (ds es : List Disposition) :
    outputBytes (ds ++ es) = outputBytes ds ++ outputBytes es := by
  simp [outputBytes]

/-- The keys of a password with one more byte (R74). -/
theorem Keys.init_append (p : List Byte) (b : Byte) : Keys.init (p ++ [b]) = (Keys.init p).update b := by
  simp [Keys.init]

@[simp] theorem Keys.init_nil : Keys.init [] = Keys.constants := rfl

end Sys2Proof.Machine
end

