-- ==== Sys2Proof/Laws/Step.lean ====
section
/-! SUPPORT. Sys2Proof/Laws/Step.lean: what a row, a step of the tracker, the ports and a step of the machine can answer. -/

namespace Sys2Proof

/-- A row applies to a decode word when its pattern agrees in the high byte and in the input byte (R56). -/
theorem StepRow.applies_append (ph pl mh ml hi b : Byte) (op : StepOp) :
    StepRow.applies ⟨ph ++ pl, mh ++ ml, op⟩ (hi ++ b) = ((hi &&& mh == ph) && (b &&& ml == pl)) := by
  have key : ((hi ++ b : BitVec 16) &&& (mh ++ ml) = ph ++ pl) ↔ (hi &&& mh = ph ∧ b &&& ml = pl) := by
    constructor
    · intro h
      constructor <;>
      · apply BitVec.eq_of_getLsbD_eq
        intro i hi'
        first
        | have := congrArg (fun v : BitVec 16 => v.getLsbD (i + 8)) h
          simpa [byteAppend_getLsbD, BitVec.getLsbD_and] using this
        | have := congrArg (fun v : BitVec 16 => v.getLsbD i) h
          simpa [byteAppend_getLsbD, BitVec.getLsbD_and, hi'] using this
    · rintro ⟨h1, h2⟩
      apply BitVec.eq_of_getLsbD_eq
      intro i _
      rw [BitVec.getLsbD_and, byteAppend_getLsbD, byteAppend_getLsbD, byteAppend_getLsbD, ← h1, ← h2]
      by_cases a : i < 8 <;> simp only [a, if_true, if_false, BitVec.getLsbD_and]
  rw [Bool.eq_iff_iff]
  simp only [StepRow.applies, beq_iff_eq, Bool.and_eq_true]
  exact key

end Sys2Proof

namespace Sys2Proof.Machine

/-- Performing a row as an operation is performing the row (R80). -/
theorem exec_instr (op : StepOp) (b : Byte) (s : State) : exec (op.instr b) s = runRow op b s := by
  cases op <;> rfl

/-- Every row answers a next state. -/
theorem runRow_answers (op : StepOp) (b : Byte) (s : State) : ∃ t, runRow op b s = .next t := by
  cases op <;> exact ⟨_, rfl⟩

/-- Everything a step of the tracker can answer: what the selected row answers, or the stop of a decode word that cannot
arise. -/
theorem State.stepByte_cases (s : State) (b : Byte) :
    (∃ op t, selectStep (s.decodeWord b) = .ok op ∧ runRow op b s = .next t ∧ s.stepByte b = .next t) ∨
    (∃ e, selectStep (s.decodeWord b) = .error e ∧ s.stepByte b = .fault .unreachableDecodeWord) := by
  unfold State.stepByte
  cases h : selectStep (s.decodeWord b) with
  | ok op =>
    obtain ⟨t, ht⟩ := runRow_answers op b s
    exact .inl ⟨op, t, rfl, ht, ht⟩
  | error e => exact .inr ⟨e, rfl, rfl⟩

/-- Everything a `PUSH` can answer (R104, R110). -/
theorem execPush_cases (s : State) (b : Byte) :
    (s.accepts = false ∧ execPush b s = .next s) ∨
    (s.accepts = true ∧ ∃ op t, selectStep (s.decodeWord b) = .ok op ∧ runRow op b s = .next t ∧
      execPush b s = .next t) ∨
    (s.accepts = true ∧ (∃ e, selectStep (s.decodeWord b) = .error e) ∧
      execPush b s = .fault .unreachableDecodeWord) := by
  unfold execPush
  cases h : s.accepts with
  | false => exact .inl ⟨rfl, by simp⟩
  | true =>
    rcases s.stepByte_cases b with ⟨op, t, h1, h2, h3⟩ | ⟨e, h1, h2⟩
    · exact .inr (.inl ⟨rfl, op, t, h1, h2, by simpa using h3⟩)
    · exact .inr (.inr ⟨rfl, ⟨e, h1⟩, by simpa using h2⟩)

/-- The state without the entry of the pins that this step has used. -/
def State.popPin (s : State) : State := { s with pins := s.pins.tail }

/-- Everything the source channel can present. -/
theorem State.fetchEvent_cases (s : State) :
    (s.src = [] ∧ s.fetchEvent = (none, s)) ∨
    ∃ w ws, s.src = w :: ws ∧
      ((∃ i, decode (.src w) = .ok i ∧ s.fetchEvent = (some i, { s with src := ws })) ∨
        ((∃ e, decode (.src w) = .error e) ∧ s.fetchEvent = (none, { s with src := ws }.answer .refused))) := by
  unfold State.fetchEvent
  cases s.src with
  | nil => exact .inl ⟨rfl, rfl⟩
  | cons w ws =>
    refine .inr ⟨w, ws, rfl, ?_⟩
    cases h : decode (.src w) with
    | ok i => exact .inl ⟨i, rfl, by simp only [h]⟩
    | error e => exact .inr ⟨⟨e, rfl⟩, by simp only [h]⟩

/-- Everything the command channel can present: the operation of a command; with a session open, an `OPEN` that will be
refused; with none, an `OPEN` that is now in progress; no command. -/
theorem State.fetchCommand_cases (s : State) :
    (s.cmds = [] ∧ s.fetchCommand = (none, s)) ∨
    ∃ c cs, s.cmds = c :: cs ∧
      ((∃ i, decode (.cmd c []) = .ok i ∧ s.fetchCommand = (some i, { s with cmds := cs })) ∨
        (decode (.cmd c []) = .error .passwordPending ∧
          ((s.sessionOpen = true ∧ s.fetchCommand = (some (.openSession []), { s with cmds := cs })) ∨
            (s.sessionOpen = false ∧ s.fetchCommand = (none, { s with cmds := cs, opening := some [] })))) ∨
        ((∃ e, decode (.cmd c []) = .error e) ∧ s.fetchCommand = (none, { s with cmds := cs }))) := by
  unfold State.fetchCommand
  cases s.cmds with
  | nil => exact .inl ⟨rfl, rfl⟩
  | cons c cs =>
    refine .inr ⟨c, cs, rfl, ?_⟩
    cases h : decode (.cmd c []) with
    | ok i => exact .inl ⟨i, rfl, by simp only [h]⟩
    | error e =>
      cases e with
      | passwordPending =>
        cases ho : s.sessionOpen with
        | true => exact .inr (.inl ⟨rfl, .inl ⟨rfl, by simp [h]⟩⟩)
        | false => exact .inr (.inl ⟨rfl, .inr ⟨rfl, by simp [h]⟩⟩)
      | _ => exact .inr (.inr ⟨⟨_, rfl⟩, by simp only [h]⟩)

/-- Every word of an `OPEN` in progress: the last transfer completes it, any other does not (R100). -/
theorem decode_openWord (got : List Byte) (p : PwBeat) :
    decode (openWord got p) =
      if p.last then .ok (.openSession (got ++ [p.data])) else .error .passwordPending := by
  have key : takePassword (got.map (⟨·, false⟩) ++ [p]) = if p.last then some (got ++ [p.data]) else none := by
    induction got with
    | nil => cases h : p.last <;> simp [takePassword, h]
    | cons b bs ih => cases h : p.last <;> simp_all [takePassword]
  cases h : p.last <;> simp_all [decode, openWord, decodeCmd]

/-- Everything the password channel can present to an `OPEN` in progress. -/
theorem State.fetchPassword_cases (s : State) (got : List Byte) :
    (s.pwBeats = [] ∧ s.fetchPassword got = (none, s)) ∨
    ∃ p ps, s.pwBeats = p :: ps ∧
      ((p.last = true ∧
          s.fetchPassword got = (some (.openSession (got ++ [p.data])), { s with pwBeats := ps, opening := none })) ∨
        (p.last = false ∧
          s.fetchPassword got = (none, { s with pwBeats := ps, opening := some (got ++ [p.data]) }))) := by
  unfold State.fetchPassword
  cases s.pwBeats with
  | nil => exact .inl ⟨rfl, rfl⟩
  | cons p ps =>
    refine .inr ⟨p, ps, rfl, ?_⟩
    cases h : p.last with
    | true => exact .inl ⟨rfl, by simp [decode_openWord, h]⟩
    | false => exact .inr ⟨rfl, by simp [decode_openWord, h]⟩

/-- Everything the channels can be asked for: an event by a `READ`, a password byte by an `OPEN` in progress, a command, or
nothing (R100, R112). -/
theorem State.fetchChannel_cases (s : State) :
    (s.srcReq = true ∧ s.fetchChannel = s.fetchEvent) ∨
    (s.srcReq = false ∧ ∃ got, s.opening = some got ∧ s.fetchChannel = s.fetchPassword got) ∨
    (s.reading = false ∧ s.opening = none ∧ s.fetchChannel = s.fetchCommand) ∨
    (s.srcReq = false ∧ s.reading = true ∧ s.opening = none ∧ s.fetchChannel = (none, s)) := by
  unfold State.fetchChannel
  cases hq : s.srcReq with
  | true => exact .inl ⟨rfl, rfl⟩
  | false =>
    cases ho : s.opening with
    | some got => exact .inr (.inl ⟨rfl, got, rfl, rfl⟩)
    | none =>
      cases hr : s.reading with
      | true => exact .inr (.inr (.inr ⟨rfl, rfl, rfl, by simp [ho, hr]⟩))
      | false => exact .inr (.inr (.inl ⟨rfl, rfl, by simp [ho, hr]⟩))

/-- Everything the ports can hold for a step: a pin that stands for an operation, or the channels. -/
theorem State.fetch_cases (s : State) :
    (∃ p ps i, s.pins = p :: ps ∧ decode (.pin p) = .ok i ∧ s.fetch = (some i, s.popPin)) ∨
    ((s.pins = [] ∨ ∃ ps, s.pins = .idle :: ps) ∧ s.fetch = s.popPin.fetchChannel) := by
  unfold State.fetch State.popPin
  cases h : s.pins with
  | nil =>
    have e : s = { s with pins := [] } := by rw [← h]
    exact .inr ⟨.inl rfl, congrArg State.fetchChannel e⟩
  | cons p ps =>
    cases p with
    | idle => exact .inr ⟨.inr ⟨ps, rfl⟩, rfl⟩
    | rst => exact .inl ⟨.rst, ps, .reset, rfl, rfl, rfl⟩
    | obs => exact .inl ⟨.obs, ps, .obs, rfl, rfl, rfl⟩

/-- With nothing at the pins, what a step finds is what the channels present. -/
theorem State.fetch_of_idle {s : State} (h : s.pins.head?.getD .idle = .idle) : s.fetch = s.popPin.fetchChannel := by
  rcases s.fetch_cases with ⟨p, ps, i, h1, h2, -⟩ | ⟨-, h2⟩
  · rw [h1] at h
    obtain rfl : p = .idle := h
    cases h2
  · exact h2

/-- A step runs the operation at the ports. -/
theorem step_of_fetch_some {s t : State} {i : Instr} (h : s.fetch = (some i, t)) : step s = exec i t := by
  simp [step, h]

/-- A step with no operation at the ports runs none. -/
theorem step_of_fetch_none {s t : State} (h : s.fetch = (none, t)) : step s = .next t := by
  simp [step, h]

end Sys2Proof.Machine
end

