-- ==== Sys2Proof/Laws/PerInstr.lean ====
section
/-! SUPPORT. Sys2Proof/Laws/PerInstr.lean: one statement for every operation as syntax: the word the encoder gives it has
the bits its row of the opcode table fixes (spec rule R64). -/

namespace Sys2Proof.Laws.TableWords

/-- `match` and `mask` of the operation's row, for the rows of format `STEP` (opcode_table.json). -/
def tableRow : Instr → Option (DecodeWord × DecodeWord)
  | .crctab _ => none
  | .crc32Step _ _ => none
  | .updateKeys _ => none
  | .deriveKsByte => none
  | .initKeys => none
  | .decryptByte _ => none
  | .skip _ => some (0x8000#16, 0x8000#16)
  | .sigM0 _ => some (0x0050#16, 0xFFFF#16)
  | .sigM1 _ => some (0x014B#16, 0xFFFF#16)
  | .sigM2 _ => some (0x0203#16, 0xFFFF#16)
  | .sigM3 _ => some (0x0304#16, 0xFFFF#16)
  | .sigMismatch _ => some (0x0000#16, 0xF000#16)
  | .flagsOk _ => some (0x1001#16, 0xF049#16)
  | .flagsNotEncrypted _ => some (0x1000#16, 0xF001#16)
  | .flagsStrong _ => some (0x1041#16, 0xF041#16)
  | .flagsStreamed _ => some (0x1009#16, 0xF049#16)
  | .csizeB0 _ => some (0x2000#16, 0xFF00#16)
  | .csizeB1 _ => some (0x2100#16, 0xFF00#16)
  | .csizeB2 _ => some (0x2200#16, 0xFF00#16)
  | .csizeB3 _ => some (0x2300#16, 0xFF00#16)
  | .fnlenLo _ => some (0x3000#16, 0xFF00#16)
  | .fnlenHi _ => some (0x3100#16, 0xFF00#16)
  | .eflenLo _ => some (0x4000#16, 0xFF00#16)
  | .eflenHi _ => some (0x4100#16, 0xFF00#16)
  | .enchdrB0 _ => some (0x5000#16, 0xFF00#16)
  | .enchdrMid1 _ => some (0x5100#16, 0xFF00#16)
  | .enchdrMid2to3 _ => some (0x5200#16, 0xFE00#16)
  | .enchdrMid4to7 _ => some (0x5400#16, 0xFC00#16)
  | .enchdrMid8to9 _ => some (0x5800#16, 0xFE00#16)
  | .enchdrMid10 _ => some (0x5A00#16, 0xFF00#16)
  | .enchdrB11 _ => some (0x5B00#16, 0xFF00#16)
  | .dataByte _ => some (0x6000#16, 0xF000#16)
  | .tailByte _ => some (0x7000#16, 0xF000#16)
  | .push _ => none
  | .srcEos => none
  | .srcErr _ => none
  | .openSession _ => none
  | .read => none
  | .close => none
  | .reset => none
  | .obs => none

/-- The 2-bit code of the operation's row, for the rows of formats `CMD` and `SRC` (opcode_table.json). -/
def tableCode : Instr → Option (BitVec 2)
  | .crctab _ => none
  | .crc32Step _ _ => none
  | .updateKeys _ => none
  | .deriveKsByte => none
  | .initKeys => none
  | .decryptByte _ => none
  | .skip _ => none
  | .sigM0 _ => none
  | .sigM1 _ => none
  | .sigM2 _ => none
  | .sigM3 _ => none
  | .sigMismatch _ => none
  | .flagsOk _ => none
  | .flagsNotEncrypted _ => none
  | .flagsStrong _ => none
  | .flagsStreamed _ => none
  | .csizeB0 _ => none
  | .csizeB1 _ => none
  | .csizeB2 _ => none
  | .csizeB3 _ => none
  | .fnlenLo _ => none
  | .fnlenHi _ => none
  | .eflenLo _ => none
  | .eflenHi _ => none
  | .enchdrB0 _ => none
  | .enchdrMid1 _ => none
  | .enchdrMid2to3 _ => none
  | .enchdrMid4to7 _ => none
  | .enchdrMid8to9 _ => none
  | .enchdrMid10 _ => none
  | .enchdrB11 _ => none
  | .dataByte _ => none
  | .tailByte _ => none
  | .push _ => some 0x0#2
  | .srcEos => some 0x1#2
  | .srcErr _ => some 0x2#2
  | .openSession _ => some 0x1#2
  | .read => some 0x2#2
  | .close => some 0x3#2
  | .reset => none
  | .obs => none

/-- The 2-bit code a command word or an event word holds. -/
def codeOf : PortWord → Option (BitVec 2)
  | .step _ => none
  | .cmd w _ => some w.code
  | .src w => some w.kind
  | .pin _ => none

/-- The encoded word of a well-formed operation has the bits its row fixes. -/
def Statement (i : Instr) : Prop :=
  i.wellFormed = true → ∀ w, encode i = some w →
    (∀ r, tableRow i = some r → ∃ dw, w = .step dw ∧ dw &&& r.2 = r.1) ∧
    (∀ c, tableCode i = some c → codeOf w = some c)

/-- A decode word of a high byte and an input byte has a row's bits when each of the two has. -/
theorem step_word (hi b ph pl mh ml : Byte) (h1 : hi &&& mh = ph) (h2 : b &&& ml = pl) :
    (hi ++ b : BitVec 16) &&& (mh ++ ml) = ph ++ pl := by
  have h := StepRow.applies_append ph pl mh ml hi b .skip
  rw [h1, h2] at h
  simpa [StepRow.applies] using h

theorem crctab (index : Byte) : Statement (.crctab index) := by
  intro _ w h; cases h

theorem crc32Step (oldCrc : Word) (byte : Byte) : Statement (.crc32Step oldCrc byte) := by
  intro _ w h; cases h

theorem updateKeys (plainByte : Byte) : Statement (.updateKeys plainByte) := by
  intro _ w h; cases h

theorem deriveKsByte : Statement .deriveKsByte := by
  intro _ w h; cases h

theorem initKeys : Statement .initKeys := by
  intro _ w h; cases h

theorem decryptByte (c : Byte) : Statement (.decryptByte c) := by
  intro _ w h; cases h

theorem skip (b : Byte) : Statement (.skip b) := by
  intro _ w h
  cases h
  exact ⟨fun r hr => by cases hr; exact ⟨_, rfl, step_word _ b 0x80#8 0x00#8 0x80#8 0x00#8 (rfl) (by simp)⟩, fun c hc => by cases hc⟩

theorem sigM0 (b : Byte) : Statement (.sigM0 b) := by
  intro hw w h
  obtain rfl : b = _ := by simpa [Instr.wellFormed] using hw
  cases h
  exact ⟨fun r hr => by cases hr; exact ⟨_, rfl, rfl⟩, fun c hc => by cases hc⟩
theorem sigM1 (b : Byte) : Statement (.sigM1 b) := by
  intro hw w h
  obtain rfl : b = _ := by simpa [Instr.wellFormed] using hw
  cases h
  exact ⟨fun r hr => by cases hr; exact ⟨_, rfl, rfl⟩, fun c hc => by cases hc⟩
theorem sigM2 (b : Byte) : Statement (.sigM2 b) := by
  intro hw w h
  obtain rfl : b = _ := by simpa [Instr.wellFormed] using hw
  cases h
  exact ⟨fun r hr => by cases hr; exact ⟨_, rfl, rfl⟩, fun c hc => by cases hc⟩
theorem sigM3 (b : Byte) : Statement (.sigM3 b) := by
  intro hw w h
  obtain rfl : b = _ := by simpa [Instr.wellFormed] using hw
  cases h
  exact ⟨fun r hr => by cases hr; exact ⟨_, rfl, rfl⟩, fun c hc => by cases hc⟩
theorem sigMismatch (b : Byte) : Statement (.sigMismatch b) := by
  intro _ w h
  cases h
  exact ⟨fun r hr => by cases hr; exact ⟨_, rfl, step_word _ b 0x00#8 0x00#8 0xF0#8 0x00#8 (by split <;> rfl) (by simp)⟩, fun c hc => by cases hc⟩

theorem flagsOk (b : Byte) : Statement (.flagsOk b) := by
  intro hw w h
  cases h
  exact ⟨fun r hr => by cases hr; exact ⟨_, rfl, step_word _ b 0x10#8 0x01#8 0xF0#8 0x49#8 (rfl) (by simpa [Instr.wellFormed] using hw)⟩, fun c hc => by cases hc⟩

theorem flagsNotEncrypted (b : Byte) : Statement (.flagsNotEncrypted b) := by
  intro hw w h
  cases h
  exact ⟨fun r hr => by cases hr; exact ⟨_, rfl, step_word _ b 0x10#8 0x00#8 0xF0#8 0x01#8 (rfl) (by simpa [Instr.wellFormed] using hw)⟩, fun c hc => by cases hc⟩

theorem flagsStrong (b : Byte) : Statement (.flagsStrong b) := by
  intro hw w h
  cases h
  exact ⟨fun r hr => by cases hr; exact ⟨_, rfl, step_word _ b 0x10#8 0x41#8 0xF0#8 0x41#8 (rfl) (by simpa [Instr.wellFormed] using hw)⟩, fun c hc => by cases hc⟩

theorem flagsStreamed (b : Byte) : Statement (.flagsStreamed b) := by
  intro hw w h
  cases h
  exact ⟨fun r hr => by cases hr; exact ⟨_, rfl, step_word _ b 0x10#8 0x09#8 0xF0#8 0x49#8 (rfl) (by simpa [Instr.wellFormed] using hw)⟩, fun c hc => by cases hc⟩

theorem csizeB0 (b : Byte) : Statement (.csizeB0 b) := by
  intro _ w h
  cases h
  exact ⟨fun r hr => by cases hr; exact ⟨_, rfl, step_word _ b 0x20#8 0x00#8 0xFF#8 0x00#8 (rfl) (by simp)⟩, fun c hc => by cases hc⟩

theorem csizeB1 (b : Byte) : Statement (.csizeB1 b) := by
  intro _ w h
  cases h
  exact ⟨fun r hr => by cases hr; exact ⟨_, rfl, step_word _ b 0x21#8 0x00#8 0xFF#8 0x00#8 (rfl) (by simp)⟩, fun c hc => by cases hc⟩

theorem csizeB2 (b : Byte) : Statement (.csizeB2 b) := by
  intro _ w h
  cases h
  exact ⟨fun r hr => by cases hr; exact ⟨_, rfl, step_word _ b 0x22#8 0x00#8 0xFF#8 0x00#8 (rfl) (by simp)⟩, fun c hc => by cases hc⟩

theorem csizeB3 (b : Byte) : Statement (.csizeB3 b) := by
  intro _ w h
  cases h
  exact ⟨fun r hr => by cases hr; exact ⟨_, rfl, step_word _ b 0x23#8 0x00#8 0xFF#8 0x00#8 (rfl) (by simp)⟩, fun c hc => by cases hc⟩

theorem fnlenLo (b : Byte) : Statement (.fnlenLo b) := by
  intro _ w h
  cases h
  exact ⟨fun r hr => by cases hr; exact ⟨_, rfl, step_word _ b 0x30#8 0x00#8 0xFF#8 0x00#8 (rfl) (by simp)⟩, fun c hc => by cases hc⟩

theorem fnlenHi (b : Byte) : Statement (.fnlenHi b) := by
  intro _ w h
  cases h
  exact ⟨fun r hr => by cases hr; exact ⟨_, rfl, step_word _ b 0x31#8 0x00#8 0xFF#8 0x00#8 (rfl) (by simp)⟩, fun c hc => by cases hc⟩

theorem eflenLo (b : Byte) : Statement (.eflenLo b) := by
  intro _ w h
  cases h
  exact ⟨fun r hr => by cases hr; exact ⟨_, rfl, step_word _ b 0x40#8 0x00#8 0xFF#8 0x00#8 (rfl) (by simp)⟩, fun c hc => by cases hc⟩

theorem eflenHi (b : Byte) : Statement (.eflenHi b) := by
  intro _ w h
  cases h
  exact ⟨fun r hr => by cases hr; exact ⟨_, rfl, step_word _ b 0x41#8 0x00#8 0xFF#8 0x00#8 (rfl) (by simp)⟩, fun c hc => by cases hc⟩

theorem enchdrB0 (b : Byte) : Statement (.enchdrB0 b) := by
  intro _ w h
  cases h
  exact ⟨fun r hr => by cases hr; exact ⟨_, rfl, step_word _ b 0x50#8 0x00#8 0xFF#8 0x00#8 (rfl) (by simp)⟩, fun c hc => by cases hc⟩

theorem enchdrMid1 (b : Byte) : Statement (.enchdrMid1 b) := by
  intro _ w h
  cases h
  exact ⟨fun r hr => by cases hr; exact ⟨_, rfl, step_word _ b 0x51#8 0x00#8 0xFF#8 0x00#8 (rfl) (by simp)⟩, fun c hc => by cases hc⟩

theorem enchdrMid2to3 (b : Byte) : Statement (.enchdrMid2to3 b) := by
  intro _ w h
  cases h
  exact ⟨fun r hr => by cases hr; exact ⟨_, rfl, step_word _ b 0x52#8 0x00#8 0xFE#8 0x00#8 (rfl) (by simp)⟩, fun c hc => by cases hc⟩

theorem enchdrMid4to7 (b : Byte) : Statement (.enchdrMid4to7 b) := by
  intro _ w h
  cases h
  exact ⟨fun r hr => by cases hr; exact ⟨_, rfl, step_word _ b 0x54#8 0x00#8 0xFC#8 0x00#8 (rfl) (by simp)⟩, fun c hc => by cases hc⟩

theorem enchdrMid8to9 (b : Byte) : Statement (.enchdrMid8to9 b) := by
  intro _ w h
  cases h
  exact ⟨fun r hr => by cases hr; exact ⟨_, rfl, step_word _ b 0x58#8 0x00#8 0xFE#8 0x00#8 (rfl) (by simp)⟩, fun c hc => by cases hc⟩

theorem enchdrMid10 (b : Byte) : Statement (.enchdrMid10 b) := by
  intro _ w h
  cases h
  exact ⟨fun r hr => by cases hr; exact ⟨_, rfl, step_word _ b 0x5A#8 0x00#8 0xFF#8 0x00#8 (rfl) (by simp)⟩, fun c hc => by cases hc⟩

theorem enchdrB11 (b : Byte) : Statement (.enchdrB11 b) := by
  intro _ w h
  cases h
  exact ⟨fun r hr => by cases hr; exact ⟨_, rfl, step_word _ b 0x5B#8 0x00#8 0xFF#8 0x00#8 (rfl) (by simp)⟩, fun c hc => by cases hc⟩

theorem dataByte (b : Byte) : Statement (.dataByte b) := by
  intro _ w h
  cases h
  exact ⟨fun r hr => by cases hr; exact ⟨_, rfl, step_word _ b 0x60#8 0x00#8 0xF0#8 0x00#8 (rfl) (by simp)⟩, fun c hc => by cases hc⟩

theorem tailByte (b : Byte) : Statement (.tailByte b) := by
  intro _ w h
  cases h
  exact ⟨fun r hr => by cases hr; exact ⟨_, rfl, step_word _ b 0x70#8 0x00#8 0xF0#8 0x00#8 (rfl) (by simp)⟩, fun c hc => by cases hc⟩

theorem push (b : Byte) : Statement (.push b) := by
  intro _ w h; cases h; exact ⟨fun r hr => (by cases hr), fun c hc => (by cases hc; rfl)⟩

theorem srcEos : Statement .srcEos := by
  intro _ w h; cases h; exact ⟨fun r hr => (by cases hr), fun c hc => (by cases hc; rfl)⟩

theorem srcErr (e : Config.IoErr) : Statement (.srcErr e) := by
  intro _ w h; cases h; exact ⟨fun r hr => (by cases hr), fun c hc => (by cases hc; rfl)⟩

theorem openSession (password : List Byte) : Statement (.openSession password) := by
  intro _ w h; cases h; exact ⟨fun r hr => (by cases hr), fun c hc => (by cases hc; rfl)⟩

theorem read : Statement .read := by
  intro _ w h; cases h; exact ⟨fun r hr => (by cases hr), fun c hc => (by cases hc; rfl)⟩

theorem close : Statement .close := by
  intro _ w h; cases h; exact ⟨fun r hr => (by cases hr), fun c hc => (by cases hc; rfl)⟩

theorem reset : Statement .reset := by
  intro _ w h; cases h; exact ⟨fun r hr => (by cases hr), fun c hc => (by cases hc)⟩

theorem obs : Statement .obs := by
  intro _ w h; cases h; exact ⟨fun r hr => (by cases hr), fun c hc => (by cases hc)⟩

end Sys2Proof.Laws.TableWords
end

