-- ==== Sys2Proof/Tests/Slice0.lean ====
section
/-! SUPPORT. Sys2Proof/Tests/Slice0.lean: the well-formedness smoke test, decode words written out from the spec's
encodings, one or two small vectors an operation (95_test_vectors.md: `T-` names a vector, `P` a program), and for each
statement a witness that meets its hypotheses. -/

namespace Sys2Proof.Tests

open Sys2Proof Sys2Proof.Machine Sys2Proof.Claims

-- Small states

/-- A session just opened: every register 0. -/
def opened : State := { State.reset with sessionOpen := true }

/-- A session in a parser state. -/
def inState (st : ParserState) : State := { opened with state := st }

/-- A session collecting the compressed size. -/
def inSize (n : BitVec 32) (p : BitVec 2) : State :=
  { opened with state := .compressedSize, compressedSize := n, valuePos := p }

/-- A session collecting a length. -/
def inLength (st : ParserState) (n : BitVec 32) (p : BitVec 2) : State :=
  { opened with state := st, value := n, valuePos := p }

/-- A session in the encryption header. -/
def inHeader (p : BitVec 4) (n : BitVec 32) (k : Keys) : State :=
  { opened with state := .encryptionHeader, hdrPos := p, compressedSize := n, keys := k }

/-- A session in the payload. -/
def inData (n : BitVec 32) (k : Keys) : State :=
  { opened with state := .data, compressedSize := n, keys := k }

/-- A session with a violation latched. -/
def faulted (v : Violation) : State := { inState .flags with fault := some v }

/-- A session with a `READ` in progress. -/
def pulling (s : State) (ws : List SrcWord) : State := { s with reading := true, src := ws }

/-- No session, and an `OPEN` in progress that has taken some password bytes. -/
def openingWith (got : List Byte) (ps : List PwBeat) : State := { State.reset with opening := some got, pwBeats := ps }

/-- A source event that delivers a byte. -/
def byteEvent (b : Byte) : SrcWord := ⟨0#2, b, 0⟩

/-- The password "secret". -/
def secret : List Byte := [0x73#8, 0x65#8, 0x63#8, 0x72#8, 0x65#8, 0x74#8]

/-- What a test looks at in the next state. -/
def after {α : Type} (i : Instr) (s : State) (f : State → α) : Option α := (nextOf (exec i s)).map f

-- Well-formedness: each check refuses an ill-formed operation

theorem test_ill_formed_signature :
    Instr.wellFormed (.sigM0 0x51#8) = false ∧ Instr.wellFormed (.sigM1 0x50#8) = false ∧
    Instr.wellFormed (.sigM2 0x04#8) = false ∧ Instr.wellFormed (.sigM3 0x03#8) = false := by decide

theorem test_ill_formed_flags :
    Instr.wellFormed (.flagsOk 0x41#8) = false ∧ Instr.wellFormed (.flagsNotEncrypted 0x01#8) = false ∧
    Instr.wellFormed (.flagsStrong 0x40#8) = false ∧ Instr.wellFormed (.flagsStreamed 0x49#8) = false := by decide

-- Decoding: words from 30_encoding.md and the programs

/-- P1, offsets 4, 0 to 3, 54. -/
theorem test_decode_signature :
    decode (.step 0b1001000000010100#16) = .ok (.skip 0x14#8) ∧
    decode (.step 0b0000000001010000#16) = .ok (.sigM0 0x50#8) ∧
    decode (.step 0b0000000101001011#16) = .ok (.sigM1 0x4B#8) ∧
    decode (.step 0b0000001000000011#16) = .ok (.sigM2 0x03#8) ∧
    decode (.step 0b0000001100000100#16) = .ok (.sigM3 0x04#8) ∧
    decode (.step 0b0000001000000101#16) = .ok (.sigMismatch 0x05#8) := by decide

/-- T-F2, T-F10, T-F11, T-F12, at `st = 1`. -/
theorem test_decode_flags :
    decode (.step 0b0001000010110111#16) = .ok (.flagsOk 0xB7#8) ∧
    decode (.step 0b0001000011111110#16) = .ok (.flagsNotEncrypted 0xFE#8) ∧
    decode (.step 0b0001000011111111#16) = .ok (.flagsStrong 0xFF#8) ∧
    decode (.step 0b0001000010111111#16) = .ok (.flagsStreamed 0xBF#8) := by decide

/-- P1, offsets 18 to 21 and 26 to 29; P2, offset 28. -/
theorem test_decode_fields :
    decode (.step 0b0010000000010001#16) = .ok (.csizeB0 0x11#8) ∧
    decode (.step 0b0010000100000000#16) = .ok (.csizeB1 0x00#8) ∧
    decode (.step 0b0010001000000000#16) = .ok (.csizeB2 0x00#8) ∧
    decode (.step 0b0010001100000000#16) = .ok (.csizeB3 0x00#8) ∧
    decode (.step 0b0011000000000101#16) = .ok (.fnlenLo 0x05#8) ∧
    decode (.step 0b0011000100000000#16) = .ok (.fnlenHi 0x00#8) ∧
    decode (.step 0b0100000000000100#16) = .ok (.eflenLo 0x04#8) ∧
    decode (.step 0b0100000100000000#16) = .ok (.eflenHi 0x00#8) := by decide

/-- P1, offsets 35, 36, 38, 42, 44, 45, 46. -/
theorem test_decode_header :
    decode (.step 0b0101000011001000#16) = .ok (.enchdrB0 0xC8#8) ∧
    decode (.step 0b0101000110001000#16) = .ok (.enchdrMid1 0x88#8) ∧
    decode (.step 0b0101001110111111#16) = .ok (.enchdrMid2to3 0xBF#8) ∧
    decode (.step 0b0101011100000011#16) = .ok (.enchdrMid4to7 0x03#8) ∧
    decode (.step 0b0101100100010101#16) = .ok (.enchdrMid8to9 0x15#8) ∧
    decode (.step 0b0101101000110010#16) = .ok (.enchdrMid10 0x32#8) ∧
    decode (.step 0b0101101100101110#16) = .ok (.enchdrB11 0x2E#8) := by decide

/-- P1, offsets 47 and 56. -/
theorem test_decode_payload :
    decode (.step 0b0110000001100010#16) = .ok (.dataByte 0x62#8) ∧
    decode (.step 0b0111000010101010#16) = .ok (.tailByte 0xAA#8) := by decide

/-- The codes of R58 and R59, and the pins. -/
theorem test_decode_ports :
    decode (.cmd ⟨1#2, false⟩ [⟨0x61#8, true⟩]) = .ok (.openSession [0x61#8]) ∧
    decode (.cmd ⟨2#2, false⟩ []) = .ok .read ∧ decode (.cmd ⟨3#2, false⟩ []) = .ok .close ∧
    decode (.src ⟨0#2, 0x4B#8, 0⟩) = .ok (.push 0x4B#8) ∧ decode (.src ⟨1#2, 0#8, 0⟩) = .ok .srcEos ∧
    decode (.src ⟨2#2, 0#8, 7⟩) = .ok (.srcErr 7) ∧
    decode (.pin .rst) = .ok .reset ∧ decode (.pin .obs) = .ok .obs := by decide

/-- Reserved codes and words that cannot arise (R58, R59, R61). -/
theorem test_decode_refuses :
    decode (.step 0x0450#16) = .error .unreachableDecodeWord ∧
    decode (.step 0x3200#16) = .error .unreachableDecodeWord ∧
    decode (.step 0x5C00#16) = .error .unreachableDecodeWord ∧
    decode (.cmd ⟨0#2, false⟩ []) = .error .noCommand ∧
    decode (.cmd ⟨1#2, false⟩ [⟨0x61#8, false⟩]) = .error .passwordPending ∧
    decode (.src ⟨3#2, 0#8, 0⟩) = .error .reservedEvent := by decide

-- The keystream generator

/-- T-K1. -/
theorem test_crctab :
    after (.crctab 0x19#8) State.reset (·.result) = some (some (.word 0x646BA8C0#32)) ∧
    after (.crctab 0x23#8) State.reset (·.result) = some (some (.word 0xA2677172#32)) := by decide +kernel

/-- T-K2, the last row and the sign row. -/
theorem test_crc32Step :
    after (.crc32Step 0xDEADBEEF#32 0x42#8) State.reset (·.result) = some (some (.word 0xA8B972EB#32)) ∧
    after (.crc32Step 0x80000000#32 0x00#8) State.reset (·.result) = some (some (.word 0x00800000#32)) := by
  decide +kernel

/-- T-K3, the worked example and the wrap. -/
theorem test_updateKeys :
    after (.updateKeys 0x61#8) (inData 1#32 ⟨0x12345678#32, 0x23456789#32, 0x34567890#32⟩) (·.keys) =
      some ⟨0x64799C96#32, 0xB303049C#32, 0xA253270A#32⟩ ∧
    after (.updateKeys 0xFF#8) (inData 1#32 ⟨0xFFFFFFFF#32, 0xFFFFFFFF#32, 0xFFFFFFFF#32⟩) (·.keys) =
      some ⟨0x00FFFFFF#32, 0xF872FCF7#32, 0x9E9B6A5C#32⟩ := by decide +kernel

/-- T-K4. -/
theorem test_deriveKsByte :
    after .deriveKsByte (inData 1#32 ⟨0#32, 0#32, 0x34567890#32⟩) (·.result) = some (some (.byte 0xAB#8)) ∧
    after .deriveKsByte (inData 1#32 ⟨0#32, 0#32, 0x00008000#32⟩) (·.result) = some (some (.byte 0x80#8)) := by
  decide +kernel

/-- T-K5: "secret", and two zero bytes. -/
theorem test_initKeys :
    after .initKeys { opened with pw := secret } (·.keys) =
      some ⟨0xDDA9E469#32, 0x96212999#32, 0xF9FC9651#32⟩ ∧
    after .initKeys { opened with pw := [0#8, 0#8] } (·.keys) =
      some ⟨0x65EE150B#32, 0xFA2D7D36#32, 0xB90D8B0E#32⟩ := by decide +kernel

/-- T-K6, step 2. -/
theorem test_decryptByte :
    after (.decryptByte 0xFF#8) (inData 1#32 ⟨0xA10C3A9A#32, 0xF2001F00#32, 0x4F260EC4#32⟩)
      (fun t => (t.result, t.keys)) =
    some (some (.byte 0xB0#8), ⟨0xDB1AC5EC#32, 0x29D64F9D#32, 0xDEF4B8CB#32⟩) := by decide +kernel

-- The tracker

/-- T-S3. -/
theorem test_skip :
    after (.skip 0xFF#8) { inState .flags with skipBytes := 2#32 } (fun t => (t.skipBytes, t.state, t.out)) =
    some (1#32, .flags, [.emit 0xFF#8]) := by decide

/-- T-S1. -/
theorem test_sigM0 : after (.sigM0 0x50#8) opened (fun t => (t.sigIdx, t.state, t.out)) =
    some (1#2, .signature, [.emit 0x50#8]) := by decide

/-- T-S1. -/
theorem test_sigM1 : after (.sigM1 0x4B#8) { opened with sigIdx := 1#2 } (fun t => (t.sigIdx, t.out)) =
    some (2#2, [.emit 0x4B#8]) := by decide

/-- T-S1. -/
theorem test_sigM2 : after (.sigM2 0x03#8) { opened with sigIdx := 2#2 } (fun t => (t.sigIdx, t.out)) =
    some (3#2, [.emit 0x03#8]) := by decide

/-- T-S2. -/
theorem test_sigM3 :
    after (.sigM3 0x04#8) { opened with sigIdx := 3#2 } (fun t => (t.state, t.skipBytes, t.sigIdx, t.out)) =
    some (.flags, 2#32, 0#2, [.emit 0x04#8]) := by decide

/-- T-S5: the second `50` does not restart the match. -/
theorem test_sigMismatch :
    after (.push 0x50#8) { opened with sigIdx := 1#2 } (fun t => (t.state, t.sigIdx, t.out)) =
    some (.tail, 0#2, [.emit 0x50#8]) := by decide +kernel

/-- T-F2. -/
theorem test_flagsOk :
    after (.flagsOk 0xB7#8) (inState .flags)
      (fun t => ((t.state, t.skipBytes, t.compressedSize), t.valuePos, t.fault, t.out)) =
    some ((.compressedSize, 11#32, 0#32), 0#2, none, [.emit 0xB6#8]) := by decide

/-- T-F10. -/
theorem test_flagsNotEncrypted :
    after (.push 0xFE#8) (inState .flags) (fun t => (t.fault, t.state, t.out)) =
    some (some .notEncrypted, .flags, [.fail .notEncrypted]) := by decide +kernel

/-- T-F11. -/
theorem test_flagsStrong :
    after (.push 0xFF#8) (inState .flags) (fun t => (t.fault, t.state, t.out)) =
    some (some .strongEncryptionUnsupported, .flags, [.fail .strongEncryptionUnsupported]) := by decide +kernel

/-- T-F12. -/
theorem test_flagsStreamed :
    after (.push 0xBF#8) (inState .flags) (fun t => (t.fault, t.state, t.out)) =
    some (some .unsupportedStreamedFormat, .flags, [.fail .unsupportedStreamedFormat]) := by decide +kernel

/-- T-C2, the first byte. -/
theorem test_csizeB0 : after (.csizeB0 0x78#8) (inSize 0#32 0#2) (fun t => (t.compressedSize, t.valuePos, t.out)) =
    some (0x78#32, 1#2, [.emit 0x78#8]) := by decide

/-- T-C2, the second byte. -/
theorem test_csizeB1 : after (.csizeB1 0x56#8) (inSize 0x78#32 1#2) (fun t => (t.compressedSize, t.valuePos, t.out)) =
    some (0x5678#32, 2#2, [.emit 0x56#8]) := by decide

/-- T-C2, the third byte. -/
theorem test_csizeB2 :
    after (.csizeB2 0x34#8) (inSize 0x5678#32 2#2) (fun t => (t.compressedSize, t.valuePos, t.out)) =
    some (0x345678#32, 3#2, [.emit 0x34#8]) := by decide

/-- T-C2, the fourth byte. -/
theorem test_csizeB3 :
    after (.csizeB3 0x12#8) (inSize 0x345678#32 3#2)
      (fun t => ((t.compressedSize, t.state, t.skipBytes), t.value, t.valuePos, t.out)) =
    some ((0x12345678#32, .filenameLength, 4#32), 0#32, 0#2, [.emit 0x12#8]) := by decide

/-- P9: a size of 65541 is emitted as 65529 with `CSIZE_REWRITE = 1`; the borrow goes through two bytes. -/
theorem test_csize_rewrite :
    (((({ inSize 0#32 0#2 with valueIncrement := csizeFirstBorrow true }.csizeByte true 0x05#8).csizeByte true
      0x00#8).csizeByte true 0x01#8).csizeLast true 0x00#8).out =
    [.emit 0xF9#8, .emit 0xFF#8, .emit 0x00#8, .emit 0x00#8] := by decide

/-- T-L4, the first byte. -/
theorem test_fnlenLo :
    after (.fnlenLo 0x34#8) (inLength .filenameLength 0#32 0#2) (fun t => (t.value, t.valuePos, t.out)) =
    some (0x34#32, 1#2, [.emit 0x34#8]) := by decide

/-- T-L4, the second byte. -/
theorem test_fnlenHi :
    after (.fnlenHi 0x12#8) (inLength .filenameLength 0x34#32 1#2) (fun t => (t.fnLen, t.value, t.valuePos, t.state)) =
    some (0x1234#16, 0#32, 0#2, .extraFieldLength) := by decide

/-- T-L4, the third byte. -/
theorem test_eflenLo :
    after (.eflenLo 0x02#8) (inLength .extraFieldLength 0#32 0#2) (fun t => (t.value, t.valuePos, t.out)) =
    some (0x02#32, 1#2, [.emit 0x02#8]) := by decide

/-- T-L4 and T-L3, the fourth byte. -/
theorem test_eflenHi :
    after (.eflenHi 0x01#8) { inLength .extraFieldLength 0x02#32 1#2 with fnLen := 0x1234#16 }
      (fun t => (t.value, t.skipBytes, t.hdrPos, t.state)) = some (0x0102#32, 0x1336#32, 0#4, .encryptionHeader) ∧
    after (.eflenHi 0xFF#8) { inLength .extraFieldLength 0xFF#32 1#2 with fnLen := 0xFFFF#16 }
      (fun t => (t.value, t.skipBytes)) = some (65535#32, 131070#32) := by decide

/-- P1, offset 35. -/
theorem test_enchdrB0 :
    after (.enchdrB0 0xC8#8) { inHeader 0#4 17#32 ⟨0#32, 0#32, 0#32⟩ with pw := secret }
      (fun t => (t.hdrPos, t.keys, t.out)) =
    some (1#4, ⟨0x34B37018#32, 0xDDAD1476#32, 0xE4F7339D#32⟩, [.drop]) := by decide +kernel

/-- P1, offset 36. -/
theorem test_enchdrMid1 :
    after (.enchdrMid1 0x88#8) (inHeader 1#4 17#32 ⟨0x34B37018#32, 0xDDAD1476#32, 0xE4F7339D#32⟩)
      (fun t => (t.hdrPos, t.keys, t.out)) =
    some (2#4, ⟨0x645F1BB0#32, 0x6C7901BF#32, 0xCA5E35B9#32⟩, [.drop]) := by decide +kernel

/-- P1, offset 37. -/
theorem test_enchdrMid2to3 :
    after (.enchdrMid2to3 0xC2#8) (inHeader 2#4 17#32 ⟨0x645F1BB0#32, 0x6C7901BF#32, 0xCA5E35B9#32⟩)
      (fun t => (t.hdrPos, t.keys, t.out)) =
    some (3#4, ⟨0x250B8DBB#32, 0x6773F463#32, 0x61A1A1E6#32⟩, [.drop]) := by decide +kernel

/-- P1, offset 40. -/
theorem test_enchdrMid4to7 :
    after (.enchdrMid4to7 0xE3#8) (inHeader 5#4 17#32 ⟨0xB8783A3F#32, 0xF1D953E7#32, 0x92A78599#32⟩)
      (fun t => (t.hdrPos, t.keys, t.out)) =
    some (6#4, ⟨0xC6B4A188#32, 0xE43FE22C#32, 0x2E26AA04#32⟩, [.drop]) := by decide +kernel

/-- P1, offset 44. -/
theorem test_enchdrMid8to9 :
    after (.enchdrMid8to9 0x15#8) (inHeader 9#4 17#32 ⟨0xD121D284#32, 0xFAC5F869#32, 0x08A6CC0F#32⟩)
      (fun t => (t.hdrPos, t.keys, t.out)) =
    some (10#4, ⟨0x93D8DE4F#32, 0x7FDCBB99#32, 0x500DD7F0#32⟩, [.drop]) := by decide +kernel

/-- P1, offset 45. -/
theorem test_enchdrMid10 :
    after (.enchdrMid10 0x32#8) (inHeader 10#4 17#32 ⟨0x93D8DE4F#32, 0x7FDCBB99#32, 0x500DD7F0#32⟩)
      (fun t => (t.hdrPos, t.keys, t.out)) =
    some (11#4, ⟨0x06256DC1#32, 0x033E15C3#32, 0x24E4AE71#32⟩, [.drop]) := by decide +kernel

/-- P1, offset 46. -/
theorem test_enchdrB11 :
    after (.enchdrB11 0x2E#8) (inHeader 11#4 17#32 ⟨0x06256DC1#32, 0x033E15C3#32, 0x24E4AE71#32⟩)
      (fun t => (t.hdrPos, t.compressedSize, t.state, t.keys, t.out)) =
    some (0#4, 5#32, .data, ⟨0xCFBCB0F4#32, 0x81A4CD94#32, 0xBD9916B2#32⟩, [.drop]) := by decide +kernel

/-- T-E3 and T-E2: declared sizes 11 and 12. -/
theorem test_enchdrB11_saturates :
    after (.enchdrB11 0x2E#8) (inHeader 11#4 11#32 ⟨0#32, 0#32, 0#32⟩) (fun t => (t.compressedSize, t.state)) =
      some (0#32, .signature) ∧
    after (.enchdrB11 0x2E#8) (inHeader 11#4 12#32 ⟨0#32, 0#32, 0#32⟩) (fun t => (t.compressedSize, t.state)) =
      some (0#32, .signature) := by decide +kernel

/-- P1, offset 47. -/
theorem test_dataByte :
    after (.dataByte 0x62#8) (inData 5#32 ⟨0xCFBCB0F4#32, 0x81A4CD94#32, 0xBD9916B2#32⟩)
      (fun t => (t.compressedSize, t.state, t.keys, t.out)) =
    some (4#32, .data, ⟨0xC2184317#32, 0x479C3058#32, 0xCD6A9F85#32⟩, [.emit 0x48#8]) := by decide +kernel

/-- P1, offset 51: the last byte of the payload. -/
theorem test_dataByte_last :
    after (.dataByte 0xF2#8) (inData 1#32 ⟨0x120131B4#32, 0x69CC744F#32, 0x01A414C6#32⟩)
      (fun t => (t.compressedSize, t.state, t.keys, t.out)) =
    some (0#32, .signature, ⟨0x11130A6D#32, 0x030F37AD#32, 0xEB0F922B#32⟩, [.emit 0x6F#8]) := by decide +kernel

/-- T-S8: no fault in `Tail`. -/
theorem test_tailByte : after (.tailByte 0x00#8) (inState .tail) (fun t => (t.state, t.fault, t.out)) =
    some (.tail, none, [.emit 0x00#8]) := by decide

-- The relay

/-- P1, offset 38, through the decode word; and the latch of T-B5: nothing is accepted after a violation. -/
theorem test_push :
    after (.push 0xBF#8) (inHeader 3#4 17#32 ⟨0x250B8DBB#32, 0x6773F463#32, 0x61A1A1E6#32⟩)
      (fun t => (t.hdrPos, t.keys)) = some (4#4, ⟨0xC59F3033#32, 0x24111EEF#32, 0x750B023D#32⟩) ∧
    after (.push 0x50#8) (faulted .notEncrypted) id = some (faulted .notEncrypted) := by decide +kernel

/-- T-B3. -/
theorem test_srcEos : after .srcEos opened (fun t => (t.state, t.out)) = some (.signature, [.endOfStream]) := by decide

/-- T-B4. -/
theorem test_srcErr : after (.srcErr 7) { opened with sigIdx := 1#2 } (fun t => (t.sigIdx, t.fault, t.out)) =
    some (1#2, none, [.ioError 7]) := by decide

/-- T-B2. -/
theorem test_open :
    after (.openSession [0x61#8]) State.reset (fun t => (t.sessionOpen, t.pw, t.out)) =
      some (true, [0x61#8], [.ok]) ∧
    after (.openSession [0x62#8]) { opened with pw := [0x61#8] } (fun t => (t.pw, t.out)) =
      some ([0x61#8], [.refused]) := by decide

/-- R100, R103: an `OPEN` with a password waits for its bytes, and the last one completes it. -/
theorem test_open_takes_password_bytes :
    (nextOf (step { State.reset with cmds := [⟨1#2, false⟩, ⟨2#2, false⟩], pwBeats := [⟨0x70#8, false⟩] })).map
      (fun t => (t.opening, t.cmds, t.sessionOpen, t.out)) = some (some [], [⟨2#2, false⟩], false, []) ∧
    (nextOf (step (openingWith [0x70#8] [⟨0x77#8, true⟩]))).map (fun t => (t.opening, t.pw, t.sessionOpen, t.out)) =
      some (none, [0x70#8, 0x77#8], true, [.ok]) := by decide +kernel

/-- T-B1 and T-B5. -/
theorem test_read :
    after .read State.reset (·.out) = some [.refused] ∧
    after .read (faulted .unsupportedStreamedFormat) (fun t => (t.out, t.reading)) =
      some ([.fail .unsupportedStreamedFormat], false) := by decide

/-- T-B9: in the middle of a header, and once more. -/
theorem test_close :
    after .close (inHeader 5#4 17#32 ⟨1#32, 2#32, 3#32⟩) (fun t => (t.sessionOpen, t.releases, t.out)) =
      some (false, 1, [.ok]) ∧
    after .close State.reset (fun t => (t.sessionOpen, t.releases, t.out)) = some (false, 0, [.ok]) := by decide

/-- R102, in the middle of a `READ`. -/
theorem test_reset :
    after .reset (pulling (inHeader 5#4 17#32 ⟨1#32, 2#32, 3#32⟩) []) id = some State.reset := by decide

/-- R102: an `OPEN` that waits for password bytes is abandoned without a disposition. -/
theorem test_reset_abandons_open :
    after .reset (openingWith [0x70#8] []) id = some State.reset := by decide

/-- R109, P3: what the port shows after the violation. -/
theorem test_obs :
    after .obs (faulted .unsupportedStreamedFormat)
      (fun t => t.obsSample.map fun o => (o.fault, o.state, o.sessionOpen, o.skipBytes, o.pwLen)) =
    some (some (3#3, 1#3, true, 0#32, 0)) := by decide

-- The step

/-- A word placed in the table's numbering runs as the first operation after reset. -/
theorem test_step_runs_placed_word :
    (nextOf (step (State.reset.withFetchWord 16 0x014B))).map (fun t => (t.sigIdx, t.out)) =
      some (2#2, [.emit 0x4B#8]) ∧
    (nextOf (step (State.reset.withFetchWord 8 3))).map (·.out) = some [.ok] := by decide +kernel

/-- T-B8: a `READ` goes on after a dropped byte. -/
theorem test_step_read_continues_after_drop :
    (nextOf (step (pulling (inHeader 11#4 12#32 ⟨0#32, 0#32, 0#32⟩) [byteEvent 0x5C#8, byteEvent 0x50#8]))).map
      (fun t => (t.reading, t.src, t.out)) = some (true, [byteEvent 0x50#8], [.drop]) := by decide +kernel

-- Witnesses: for each statement with hypotheses, a state and operands that meet them, at the bounds of each clause

theorem ready_opened : Ready opened := ⟨rfl, rfl⟩

theorem inv_opened : opened.Inv := by constructor <;> decide

theorem test_witness_KeystreamByteUsesOnlyBits15To2 :
    (⟨0#32, 0#32, 0x34567890#32⟩ : Keys).k2.extractLsb' 2 14 = (⟨1#32, 2#32, 0xFFFF7893#32⟩ : Keys).k2.extractLsb' 2 14 := by
  decide

theorem test_witness_InitKeysFoldsThePassword :
    opened.pw = [] ∧ ({ opened with pw := [0x61#8, 0x62#8] } : State).pw = [0x61#8] ++ [0x62#8] := by decide

theorem test_witness_SkipRelaysAndCountsDown :
    (Ready { inState .flags with skipBytes := 1#32 } ∧ ({ inState .flags with skipBytes := 1#32 } : State).skipBytes ≠ 0#32) ∧
    Ready { inState .encryptionHeader with skipBytes := 131070#32 } ∧
    ({ inState .encryptionHeader with skipBytes := 131070#32 } : State).skipBytes ≠ 0#32 :=
  ⟨⟨⟨rfl, rfl⟩, by decide⟩, ⟨rfl, rfl⟩, by decide⟩

/-- A session at a position of the signature. -/
def inSignature (p : BitVec 2) : State := { opened with sigIdx := p }

theorem test_witness_SignatureMatchAdvances : ∀ p : BitVec 2,
    Ready (inSignature p) ∧ (inSignature p).skipBytes = 0#32 ∧ (inSignature p).state = .signature ∧
      (inSignature p).sigIdx = p := fun _ => ⟨⟨rfl, rfl⟩, rfl, rfl, rfl⟩

/-- At each position: a byte that is not the signature's there, `50` at position 1 among them. -/
theorem test_witness_SignatureMismatchGoesToTail :
    Ready (inSignature 0#2) ∧ (inSignature 0#2).skipBytes = 0#32 ∧ (inSignature 0#2).state = .signature ∧
    [0x50#8, 0x4B#8, 0x03#8, 0x04#8][(inSignature 0#2).sigIdx.toNat]? ≠ some 0x00#8 ∧
    [0x50#8, 0x4B#8, 0x03#8, 0x04#8][(inSignature 1#2).sigIdx.toNat]? ≠ some 0x50#8 ∧
    [0x50#8, 0x4B#8, 0x03#8, 0x04#8][(inSignature 2#2).sigIdx.toNat]? ≠ some 0x01#8 ∧
    [0x50#8, 0x4B#8, 0x03#8, 0x04#8][(inSignature 3#2).sigIdx.toNat]? ≠ some 0x14#8 :=
  ⟨⟨rfl, rfl⟩, rfl, rfl, by decide⟩

theorem test_witness_FlagsOkClearsOnlyBit0 :
    Ready (inState .flags) ∧ (inState .flags).skipBytes = 0#32 ∧ (inState .flags).state = .flags ∧
    (0xB7#8).getLsbD 0 = true ∧ (0xB7#8).getLsbD 6 = false ∧ (0xB7#8).getLsbD 3 = false :=
  ⟨⟨rfl, rfl⟩, by decide⟩

/-- One byte for each clause. -/
theorem test_witness_FlagsViolationLatchesAndAnswersFail :
    Ready (inState .flags) ∧ (inState .flags).skipBytes = 0#32 ∧ (inState .flags).state = .flags ∧
    (0xFE#8).getLsbD 0 = false ∧ ((0xFF#8).getLsbD 0 = true ∧ (0xFF#8).getLsbD 6 = true) ∧
    ((0xBF#8).getLsbD 0 = true ∧ (0xBF#8).getLsbD 6 = false ∧ (0xBF#8).getLsbD 3 = true) :=
  ⟨⟨rfl, rfl⟩, by decide⟩

theorem test_witness_PushedFlagsByteRaisesByPriority :
    Ready (inState .flags) ∧ (inState .flags).skipBytes = 0#32 ∧ (inState .flags).state = .flags :=
  ⟨⟨rfl, rfl⟩, rfl, rfl⟩

/-- At each of the first three positions, with the greatest partial value there. -/
theorem test_witness_FirstSizeBytesAccumulate : ∀ p : BitVec 2,
    Ready (inSize 0xFFFF#32 p) ∧ (inSize 0xFFFF#32 p).skipBytes = 0#32 ∧
      (inSize 0xFFFF#32 p).state = .compressedSize ∧ (inSize 0xFFFF#32 p).valuePos = p :=
  fun _ => ⟨⟨rfl, rfl⟩, rfl, rfl, rfl⟩

theorem test_witness_FourthSizeByteGoesToFilenameLength :
    Ready (inSize 0xFFFFFF#32 3#2) ∧ (inSize 0xFFFFFF#32 3#2).skipBytes = 0#32 ∧
    (inSize 0xFFFFFF#32 3#2).state = .compressedSize ∧ (inSize 0xFFFFFF#32 3#2).valuePos = 3#2 :=
  ⟨⟨rfl, rfl⟩, rfl, rfl, rfl⟩

/-- Either clause. -/
theorem test_witness_LowLengthByteGoesIntoValue : ∀ st : ParserState,
    Ready (inLength st 0#32 0#2) ∧ (inLength st 0#32 0#2).skipBytes = 0#32 ∧ (inLength st 0#32 0#2).valuePos = 0#2 ∧
      (inLength st 0#32 0#2).state = st := fun _ => ⟨⟨rfl, rfl⟩, rfl, rfl, rfl⟩

theorem test_witness_HighFilenameLengthByteCompletesFnLen :
    Ready (inLength .filenameLength 0xFF#32 1#2) ∧ (inLength .filenameLength 0xFF#32 1#2).skipBytes = 0#32 ∧
    (inLength .filenameLength 0xFF#32 1#2).state = .filenameLength ∧
    (inLength .filenameLength 0xFF#32 1#2).valuePos = 1#2 := ⟨⟨rfl, rfl⟩, rfl, rfl, rfl⟩

theorem test_witness_HighExtraLengthByteSetsSkip :
    Ready (inLength .extraFieldLength 0xFF#32 1#2) ∧ (inLength .extraFieldLength 0xFF#32 1#2).skipBytes = 0#32 ∧
    (inLength .extraFieldLength 0xFF#32 1#2).state = .extraFieldLength ∧
    (inLength .extraFieldLength 0xFF#32 1#2).valuePos = 1#2 := ⟨⟨rfl, rfl⟩, rfl, rfl, rfl⟩

/-- Some session at a position of the encryption header. -/
def headerAt (p : BitVec 4) : State := inHeader p 17#32 ⟨1#32, 2#32, 3#32⟩

theorem test_witness_FirstHeaderByteInitialisesKeys :
    Ready (headerAt 0#4) ∧ (headerAt 0#4).skipBytes = 0#32 ∧ (headerAt 0#4).state = .encryptionHeader ∧
    (headerAt 0#4).hdrPos = 0#4 := ⟨⟨rfl, rfl⟩, rfl, rfl, rfl⟩

/-- Each clause at its bounds: positions 1; 2, 3; 4, 7; 8, 9; 10. -/
theorem test_witness_MiddleHeaderBytesDecryptAndDrop :
    (∀ p, Ready (headerAt p) ∧ (headerAt p).skipBytes = 0#32 ∧ (headerAt p).state = .encryptionHeader) ∧
    (headerAt 1#4).hdrPos = 1#4 ∧
    (∀ p ∈ [2#4, 3#4], 2 ≤ (headerAt p).hdrPos.toNat ∧ (headerAt p).hdrPos.toNat ≤ 3) ∧
    (∀ p ∈ [4#4, 7#4], 4 ≤ (headerAt p).hdrPos.toNat ∧ (headerAt p).hdrPos.toNat ≤ 7) ∧
    (∀ p ∈ [8#4, 9#4], 8 ≤ (headerAt p).hdrPos.toNat ∧ (headerAt p).hdrPos.toNat ≤ 9) ∧
    (headerAt 10#4).hdrPos = 10#4 := ⟨fun _ => ⟨⟨rfl, rfl⟩, rfl, rfl⟩, by decide⟩

/-- Declared sizes 12 and 13: either side of the saturation. -/
theorem test_witness_LastHeaderByteSaturates : ∀ n ∈ [12#32, 13#32],
    Ready (inHeader 11#4 n ⟨1#32, 2#32, 3#32⟩) ∧ (inHeader 11#4 n ⟨1#32, 2#32, 3#32⟩).skipBytes = 0#32 ∧
      (inHeader 11#4 n ⟨1#32, 2#32, 3#32⟩).state = .encryptionHeader ∧
      (inHeader 11#4 n ⟨1#32, 2#32, 3#32⟩).hdrPos = 11#4 := fun _ _ => ⟨⟨rfl, rfl⟩, rfl, rfl, rfl⟩

/-- The last byte of a payload, and one of many. -/
theorem test_witness_DataByteEmitsPlaintextAndCounts : ∀ n ∈ [1#32, 0xFFFFFFFF#32],
    Ready (inData n ⟨1#32, 2#32, 3#32⟩) ∧ (inData n ⟨1#32, 2#32, 3#32⟩).skipBytes = 0#32 ∧
      (inData n ⟨1#32, 2#32, 3#32⟩).state = .data ∧ 1 ≤ (inData n ⟨1#32, 2#32, 3#32⟩).compressedSize.toNat := by
  simp only [List.mem_cons, List.not_mem_nil, or_false]
  rintro n (rfl | rfl)
  · exact ⟨⟨rfl, rfl⟩, rfl, rfl, by decide⟩
  · exact ⟨⟨rfl, rfl⟩, rfl, rfl, by decide⟩

theorem test_witness_TailByteIsRelayedUnchanged :
    Ready (inState .tail) ∧ (inState .tail).skipBytes = 0#32 ∧ (inState .tail).state = .tail := ⟨⟨rfl, rfl⟩, rfl, rfl⟩

theorem test_witness_PushPerformsTheRowOfR80 : opened.Inv ∧ Ready opened := ⟨inv_opened, ready_opened⟩

/-- A byte at a position that cannot arise, in a session that accepts it. -/
theorem test_witness_PushStopsOnlyWhereNoRowApplies :
    Ready (headerAt 12#4) ∧ (headerAt 12#4).skipBytes = 0#32 ∧ (headerAt 12#4).state = .encryptionHeader ∧
    11 < (headerAt 12#4).hdrPos.toNat ∧ Ready (inLength .filenameLength 0#32 2#2) ∧
    1 < (inLength .filenameLength 0#32 2#2).valuePos.toNat :=
  ⟨⟨rfl, rfl⟩, rfl, rfl, by decide, ⟨rfl, rfl⟩, by decide⟩

theorem test_witness_DecodedOperationsAreWellFormed : decode (.step 0x1009#16) = .ok (.flagsStreamed 0x09#8) := by decide

theorem test_witness_DecodeOfEncodeIsTheOperation :
    Instr.wellFormed (.sigMismatch 0x50#8) = true ∧ Instr.wellFormed (.openSession secret) = true ∧
    encode (.sigMismatch 0x50#8) = some (.step 0x0150#16) := by decide

theorem test_witness_PushGivesOneDisposition : (headerAt 11#4).Inv ∧ Ready (headerAt 11#4) :=
  ⟨by constructor <;> decide, rfl, rfl⟩

theorem test_witness_EndAndErrorPassThrough : Ready (inSignature 1#2) := ⟨rfl, rfl⟩

theorem test_witness_OpenStartsAFreshSession : State.reset.sessionOpen = false ∧ opened.sessionOpen = true := by decide

theorem test_witness_ReadStartsOrAnswersAtOnce :
    State.reset.sessionOpen = false ∧
    ((faulted .notEncrypted).sessionOpen = true ∧ (faulted .notEncrypted).fault = some .notEncrypted) ∧ Ready opened :=
  ⟨rfl, ⟨rfl, rfl⟩, rfl, rfl⟩

/-- A `READ` that drops the last header byte and goes on to the next byte. -/
theorem test_witness_ReadIsTheLoopOverSourceEvents : ∀ s, s = pulling (headerAt 11#4) [byteEvent 0#8, byteEvent 1#8] →
    s.Inv ∧ Ready s ∧ s.reading = true ∧ s.pins = [] := by
  rintro s rfl
  exact ⟨by constructor <;> decide, ⟨rfl, rfl⟩, rfl, rfl⟩

theorem test_witness_CloseReleasesOnce : opened.sessionOpen = true ∧ State.reset.sessionOpen = false := by decide

theorem test_witness_ResetAbandonsEverything :
    ({ pulling opened [] with pins := [.rst, .obs] } : State).pins = .rst :: [.obs] := rfl

theorem test_witness_ObservationIsReadOnlyAndHidesPassword :
    ([0x62#8] : List Byte).length = ({ opened with pw := [0x61#8] } : State).pw.length := rfl

/-- Neither with the session closed nor after a violation is an event accepted; and a reserved event in a `READ`. -/
theorem test_witness_EventsWithoutMeaningChangeNothing :
    ¬Ready State.reset ∧ ¬Ready (faulted .notEncrypted) ∧
    (∀ s, s = pulling opened [⟨3#2, 0#8, 0⟩, byteEvent 1#8] → Ready s ∧ s.reading = true ∧ s.pins = [] ∧
      s.src = ⟨3#2, 0#8, 0⟩ :: [byteEvent 1#8]) :=
  ⟨fun h => absurd h.1 (by decide), fun h => absurd h.2 (by decide), by rintro s rfl; exact ⟨⟨rfl, rfl⟩, rfl, rfl, rfl⟩⟩

/-- One word on each port; an `OPEN` with a password and code 0, with no session and with one; a password byte that is the
last and one that is not, as the first and as a later one. -/
theorem test_witness_StepRunsTheDecodedOperation :
    (({ opened with pins := [.rst] } : State).pins = .rst :: [] ∧ decode (.pin .rst) = .ok .reset) ∧
    (∀ s, s = pulling opened [byteEvent 0x50#8] → s.pins.head?.getD .idle = .idle ∧ s.reading = true ∧ Ready s ∧
      s.src = byteEvent 0x50#8 :: [] ∧ decode (.src (byteEvent 0x50#8)) = .ok (.push 0x50#8)) ∧
    (∀ s : State, s = { opened with pins := [.idle], cmds := [plainCmd 2#2] } → s.pins.head?.getD .idle = .idle ∧
      s.reading = false ∧ s.opening = none ∧ s.cmds = plainCmd 2#2 :: [] ∧ decode (.cmd (plainCmd 2#2) []) = .ok .read) ∧
    (∀ c ∈ [⟨1#2, false⟩, plainCmd 0#2], ∀ s ∈ [{ State.reset with cmds := [c] }, { opened with cmds := [c] }],
      s.pins.head?.getD .idle = .idle ∧ s.reading = false ∧ s.opening = none ∧ s.cmds = c :: []) ∧
    (State.reset.sessionOpen = false ∧ opened.sessionOpen = true) ∧
    (∀ p ∈ [⟨0x77#8, false⟩, ⟨0x77#8, true⟩], ∀ s ∈ [openingWith [] [p], openingWith [0x70#8] [p]],
      s.pins.head?.getD .idle = .idle ∧ s.reading = false ∧ s.opening.isSome = true ∧ s.pwBeats = p :: []) ∧
    Ready opened ∧ decode (.step (opened.decodeWord 0x50#8)) = .ok (.sigM0 0x50#8) := by
  refine ⟨⟨rfl, by decide⟩, ?_, ?_, by decide, by decide, by decide, ⟨rfl, rfl⟩, by decide +kernel⟩
  · rintro s rfl
    exact ⟨rfl, rfl, ⟨rfl, rfl⟩, rfl, by decide⟩
  · rintro s rfl
    exact ⟨rfl, rfl, rfl, rfl, by decide⟩

/-- A decode word, each of the four codes, and the largest word of the table. -/
theorem test_witness_PlacedWordRunsNext :
    decodeTableWord 16 0x5BAA = some (.enchdrB11 0xAA#8) ∧ decodeTableWord 16 0xFFFF = some (.skip 0xFF#8) ∧
    decodeTableWord 8 0 = some (.push 0#8) ∧ decodeTableWord 8 1 = some (.openSession []) ∧
    decodeTableWord 8 2 = some .read ∧ decodeTableWord 8 3 = some .close := by decide +kernel

/-- A `READ` that waits, an `OPEN` that waits with a command behind it, and nothing at the ports. -/
theorem test_witness_WaitingChangesNothing :
    ∀ s ∈ [pulling opened [], { openingWith [0x70#8] [] with cmds := [plainCmd 2#2] }, State.reset],
    s.pins = [] ∧ (s.reading = true → s.src = []) ∧ (s.opening ≠ none → s.pwBeats = []) ∧
      (s.reading = false → s.opening = none → s.cmds = []) := by decide

/-- A step of a state that meets the invariants, in `Tail`. -/
theorem test_witness_StepKeepsInvariant : ∀ s, s = pulling (inState .tail) [byteEvent 1#8] →
    s.Inv ∧ (nextOf (step s)).isSome = true ∧ s.state = .tail := by
  rintro s rfl
  exact ⟨by constructor <;> decide, by decide +kernel, rfl⟩

theorem test_witness_InvariantStatesAreSafe :
    (inSize 0xFFFFFF#32 3#2).Inv ∧ ({ inState .encryptionHeader with skipBytes := 131070#32 } : State).Inv :=
  ⟨by constructor <;> decide, by constructor <;> decide⟩

/-- An operation that ends in a next state, and writes every register it may write. -/
theorem test_witness_OnlyTheirWritersWriteRegisters :
    (nextOf (exec (.enchdrB11 1#8) (headerAt 11#4))).isSome = true := by decide +kernel

/-- The latch set by a byte, set before it, and cleared by a reset. -/
theorem test_witness_FaultLatchSetAndCleared :
    after (.push 0x00#8) (inState .flags) (·.fault) = some (some .notEncrypted) ∧
    after (.push 0x00#8) (faulted .notEncrypted) (·.fault) = some (some .notEncrypted) ∧
    after .reset (faulted .notEncrypted) (·.fault) = some none := by decide +kernel

theorem test_witness_PasswordIsImmutableInASession :
    (nextOf (step { opened with cmds := [plainCmd 1#2] })).map (·.sessionOpen) = some true := by decide +kernel

/-- A faulted session that a command meets, that a reset ends, and, closed, that an `OPEN` replaces. -/
theorem test_witness_FaultedSessionStaysFaulted :
    (nextOf (step { faulted .notEncrypted with cmds := [plainCmd 2#2] })).map (·.fault) = some (some .notEncrypted) ∧
    (nextOf (step { faulted .notEncrypted with pins := [.rst] })).map (·.fault) = some none ∧
    (nextOf (step { faulted .notEncrypted with sessionOpen := false, cmds := [plainCmd 1#2] })).map
      (fun t => (t.fault, t.sessionOpen)) = some (none, true) := by decide +kernel

theorem test_witness_SourceInvariantsHold : ∀ n ∈ [1#32, 0xFFFFFFFF#32],
    (inData n ⟨1#32, 2#32, 3#32⟩).Inv ∧ Ready (inData n ⟨1#32, 2#32, 3#32⟩) := by
  simp only [List.mem_cons, List.not_mem_nil, or_false]
  rintro n (rfl | rfl)
  · exact ⟨by constructor <;> decide, rfl, rfl⟩
  · exact ⟨by constructor <;> decide, rfl, rfl⟩

theorem test_witness_SkippedRunIsRelayed :
    Ready { inState .flags with skipBytes := 2#32 } ∧ [0x14#8, 0x00#8] ≠ [] ∧
    [0x14#8, 0x00#8].length = ({ inState .flags with skipBytes := 2#32 } : State).skipBytes.toNat :=
  ⟨⟨rfl, rfl⟩, by decide, by decide⟩

theorem test_witness_SizeFieldIsLittleEndian :
    (inSize 0#32 0#2).Inv ∧ Ready (inSize 0#32 0#2) ∧ (inSize 0#32 0#2).state = .compressedSize ∧
    (inSize 0#32 0#2).skipBytes = 0#32 ∧ (inSize 0#32 0#2).valuePos = 0#2 ∧ 0xFFFFFFFF < 2 ^ 32 :=
  ⟨by constructor <;> decide, ⟨rfl, rfl⟩, rfl, rfl, rfl, by decide⟩

theorem test_witness_LengthFieldsSumToSkip :
    (inLength .filenameLength 0#32 0#2).Inv ∧ Ready (inLength .filenameLength 0#32 0#2) ∧
    (inLength .filenameLength 0#32 0#2).state = .filenameLength ∧
    (inLength .filenameLength 0#32 0#2).skipBytes = 0#32 ∧ (inLength .filenameLength 0#32 0#2).valuePos = 0#2 ∧
    65535 < 2 ^ 16 ∧ 0 < 2 ^ 16 :=
  ⟨by constructor <;> decide, ⟨rfl, rfl⟩, rfl, rfl, rfl, by decide, by decide⟩

/-- With a payload to come and without. -/
theorem test_witness_EncryptionHeaderIsSwallowed : ∀ n ∈ [0#32, 12#32, 13#32],
    (inHeader 0#4 n ⟨1#32, 2#32, 3#32⟩).Inv ∧ Ready (inHeader 0#4 n ⟨1#32, 2#32, 3#32⟩) ∧
      (inHeader 0#4 n ⟨1#32, 2#32, 3#32⟩).state = .encryptionHeader ∧
      (inHeader 0#4 n ⟨1#32, 2#32, 3#32⟩).skipBytes = 0#32 ∧ (inHeader 0#4 n ⟨1#32, 2#32, 3#32⟩).hdrPos = 0#4 ∧
      (List.replicate 12 0xC8#8).length = 12 := by
  simp only [List.mem_cons, List.not_mem_nil, or_false]
  rintro n (rfl | rfl | rfl)
  all_goals exact ⟨by constructor <;> decide, ⟨rfl, rfl⟩, rfl, rfl, rfl, rfl⟩

theorem test_witness_PayloadIsDecryptedInFull :
    (inData 2#32 ⟨1#32, 2#32, 3#32⟩).Inv ∧ Ready (inData 2#32 ⟨1#32, 2#32, 3#32⟩) ∧
    (inData 2#32 ⟨1#32, 2#32, 3#32⟩).state = .data ∧
    [0x62#8, 0x3C#8].length = (inData 2#32 ⟨1#32, 2#32, 3#32⟩).compressedSize.toNat :=
  ⟨by constructor <;> decide, ⟨rfl, rfl⟩, rfl, rfl⟩

/-- Streams that differ at each of the four bytes, one that ends before any byte differs, and the empty one. -/
theorem test_witness_NonZipStreamIsRelayedUnchanged :
    Ready opened ∧ opened.skipBytes = 0#32 ∧ opened.state = .signature ∧ opened.sigIdx = 0#2 ∧
    ∀ bs ∈ [[0x52#8, 0x61#8], [0x50#8, 0x50#8, 0x4B#8], [0x50#8, 0x4B#8, 0x01#8, 0x02#8], [0x50#8, 0x4B#8, 0x03#8, 0x14#8],
      [0x50#8, 0x4B#8, 0x03#8], []], ¬[0x50#8, 0x4B#8, 0x03#8, 0x04#8].IsPrefix bs :=
  ⟨⟨rfl, rfl⟩, rfl, rfl, rfl, by decide⟩

/-- The entry of P1: sizes 17, 5, 0, and the flags byte `01`. -/
theorem test_witness_EntryIsRelayedDecrypted :
    opened.Inv ∧ Ready opened ∧ opened.state = .signature ∧ opened.sigIdx = 0#2 ∧
    [0x14#8, 0x00#8].length = 2 ∧ (List.replicate 11 0x00#8).length = 11 ∧ (littleEndian 4 5).length = 4 ∧
    (List.replicate 12 0xC8#8).length = 12 ∧
    [0x61#8, 0x2E#8, 0x74#8, 0x78#8, 0x74#8].length < 2 ^ 16 ∧ ([] : List Byte).length < 2 ^ 16 ∧ 17 < 2 ^ 32 ∧
    [0x62#8, 0x3C#8, 0x2C#8, 0xAB#8, 0xF2#8].length = 17 - 12 ∧
    (0x01#8).getLsbD 0 = true ∧ (0x01#8).getLsbD 6 = false ∧ (0x01#8).getLsbD 3 = false :=
  ⟨inv_opened, ready_opened, by decide⟩

/-- Two sessions with other keys, passwords and emitted bytes, a `READ` in progress in each; and two machines with an `OPEN`
in progress that take other passwords. -/
theorem test_witness_ControlIsIndependentOfSecrets : ∀ s u : State,
    s = pulling (inData 2#32 ⟨1#32, 2#32, 3#32⟩) [byteEvent 0x62#8] →
    u = { pulling (inData 2#32 ⟨4#32, 5#32, 6#32⟩) [byteEvent 0x62#8] with pw := secret } →
    SameButSecrets { s with out := [.emit 1#8] } { u with out := [.emit 2#8] } ∧
    SameButSecrets (openingWith [0x70#8] [⟨0x77#8, true⟩]) (openingWith [0x71#8] [⟨0x78#8, true⟩]) ∧
    (nextOf (step s)).isSome = true := by
  rintro s u rfl rfl
  exact ⟨⟨rfl, rfl, rfl, rfl⟩, ⟨rfl, rfl, rfl, rfl⟩, by decide +kernel⟩

/-- A machine fresh from reset, and one whose last session ended in a violation. -/
theorem test_witness_SessionsInheritNothing : ∀ u : State, u = { faulted .notEncrypted with sessionOpen := false } →
    State.reset.sessionOpen = false ∧ u.sessionOpen = false ∧
    (nextOf (exec (.openSession secret) State.reset)).isSome = true ∧
    (nextOf (exec (.openSession secret) u)).isSome = true := by
  rintro u rfl
  decide

/-- Outside every collecting state (with either clause), and in `CompressedSize` (with the first). -/
theorem test_witness_AccumulatorIsReadOnlyWhereCollected : ∀ s ∈ [inState .flags, inSize 0xFFFFFF#32 3#2],
    s.Inv ∧ Ready s ∧ s.state ≠ .filenameLength ∧ s.state ≠ .extraFieldLength ∧
      (s = inState .flags → s.state ≠ .compressedSize) := by
  simp only [List.mem_cons, List.not_mem_nil, or_false]
  rintro s (rfl | rfl)
  all_goals exact ⟨by constructor <;> decide, ⟨rfl, rfl⟩, by decide, by decide, by decide⟩

end Sys2Proof.Tests
end

section
/-! SUPPORT. A case principle over operations that takes the rows of the tracker together, and what each kind of operation
does to the fault latch (spec rules R19, R80, R126). -/

namespace Sys2Proof

/-- Cases over operations: a row of the tracker, whichever it is, or one of the others (R64). -/
theorem Instr.rowCases {motive : Instr → Prop}
    (row : ∀ op b, motive (StepOp.instr op b))
    (crctab : ∀ n, motive (.crctab n)) (crc32Step : ∀ c b, motive (.crc32Step c b))
    (updateKeys : ∀ b, motive (.updateKeys b)) (deriveKsByte : motive .deriveKsByte)
    (initKeys : motive .initKeys) (decryptByte : ∀ c, motive (.decryptByte c))
    (push : ∀ b, motive (.push b)) (srcEos : motive .srcEos) (srcErr : ∀ e, motive (.srcErr e))
    (openSession : ∀ p, motive (.openSession p)) (read : motive .read) (close : motive .close)
    (reset : motive .reset) (obs : motive .obs) : ∀ i, motive i
  | .crctab n => crctab n
  | .crc32Step c b => crc32Step c b
  | .updateKeys b => updateKeys b
  | .deriveKsByte => deriveKsByte
  | .initKeys => initKeys
  | .decryptByte c => decryptByte c
  | .skip b => row .skip b
  | .sigM0 b => row .sigM0 b
  | .sigM1 b => row .sigM1 b
  | .sigM2 b => row .sigM2 b
  | .sigM3 b => row .sigM3 b
  | .sigMismatch b => row .sigMismatch b
  | .flagsOk b => row .flagsOk b
  | .flagsNotEncrypted b => row .flagsNotEncrypted b
  | .flagsStrong b => row .flagsStrong b
  | .flagsStreamed b => row .flagsStreamed b
  | .csizeB0 b => row .csizeB0 b
  | .csizeB1 b => row .csizeB1 b
  | .csizeB2 b => row .csizeB2 b
  | .csizeB3 b => row .csizeB3 b
  | .fnlenLo b => row .fnlenLo b
  | .fnlenHi b => row .fnlenHi b
  | .eflenLo b => row .eflenLo b
  | .eflenHi b => row .eflenHi b
  | .enchdrB0 b => row .enchdrB0 b
  | .enchdrMid1 b => row .enchdrMid1 b
  | .enchdrMid2to3 b => row .enchdrMid2to3 b
  | .enchdrMid4to7 b => row .enchdrMid4to7 b
  | .enchdrMid8to9 b => row .enchdrMid8to9 b
  | .enchdrMid10 b => row .enchdrMid10 b
  | .enchdrB11 b => row .enchdrB11 b
  | .dataByte b => row .dataByte b
  | .tailByte b => row .tailByte b
  | .push b => push b
  | .srcEos => srcEos
  | .srcErr e => srcErr e
  | .openSession p => openSession p
  | .read => read
  | .close => close
  | .reset => reset
  | .obs => obs

end Sys2Proof

namespace Sys2Proof.Machine

/-- While a violation is latched no event is accepted (R80, R110). -/
theorem State.accepts_eq_false_of_fault {s : State} (h : s.fault ≠ none) : s.accepts = false :=
  Bool.eq_false_iff.mpr fun ha => h (s.accepts_iff.mp ha).2

@[simp] theorem State.afterHeader_fault (s : State) : s.afterHeader.fault = s.fault := by
  unfold State.afterHeader
  split <;> rfl

theorem State.onEvent_keeps_fault {s t : State} {f : State → State} (h : s.onEvent f = .next t)
    (hf : (f s).fault = s.fault) : t.fault = s.fault := by
  rcases s.onEvent_cases h with ⟨-, rfl⟩ | ⟨-, rfl⟩
  · exact hf
  · rfl

/-- Every row of the tracker is performed for an accepted event only (R80); what it does then leaves the latch alone, but in
the three failing flags rows (R86 to R88). -/
theorem runRow_eq_onEvent (op : StepOp) (b : Byte) :
    ∃ f, (∀ s : State, runRow op b s = s.onEvent f) ∧
      (op ∈ [StepOp.flagsNotEncrypted, .flagsStrong, .flagsStreamed] ∨ ∀ s : State, (f s).fault = s.fault) := by
  cases op
  case flagsNotEncrypted | flagsStrong | flagsStreamed => exact ⟨_, fun _ => rfl, .inl (by decide)⟩
  case enchdrB11 => exact ⟨_, fun _ => rfl, .inr fun s => by simp⟩
  all_goals exact ⟨_, fun _ => rfl, .inr fun _ => rfl⟩

/-- A row that changes the latch is one of the three failing flags rows, and no violation was latched (R86 to R88). -/
theorem runRow_fault_cases {op : StepOp} {b : Byte} {s t : State} (h : runRow op b s = .next t) :
    t.fault = s.fault ∨
      (s.fault = none ∧ op ∈ [StepOp.flagsNotEncrypted, .flagsStrong, .flagsStreamed]) := by
  obtain ⟨f, hf, hop⟩ := runRow_eq_onEvent op b
  rw [hf] at h
  rcases s.onEvent_cases h with ⟨ha, rfl⟩ | ⟨-, rfl⟩
  · exact hop.symm.imp (· s) fun hop => ⟨(s.accepts_iff.mp ha).2, hop⟩
  · exact .inl rfl

theorem execOpen_fault_cases {p : List Byte} {s t : State} (h : execOpen p s = .next t) :
    t.fault = s.fault ∨ t.fault = none := by
  unfold execOpen at h
  split at h
  · cases h; exact .inl rfl
  · cases h; exact .inr rfl

theorem execRead_keeps_fault {s t : State} (h : execRead s = .next t) : t.fault = s.fault := by
  unfold execRead at h
  split at h
  · cases h; rfl
  · split at h <;> (cases h; rfl)

theorem execClose_keeps_fault {s t : State} (h : execClose s = .next t) : t.fault = s.fault := by
  unfold execClose at h
  split at h <;> (cases h; rfl)

/-- The latch as a number is 0 or the code of a violation (R19, R120). -/
theorem faultCode_cases (f : Option Violation) :
    faultCode f = 0#3 ∨ faultCode f = 1#3 ∨ faultCode f = 2#3 ∨ faultCode f = 3#3 := by
  rcases f with _ | v
  · exact .inl rfl
  · cases v <;> decide

/-- While a violation is latched a source event changes nothing (R110). -/
theorem exec_event_of_fault {i : Instr} {s : State} (hs : s.fault ≠ none)
    (hi : (∃ b, i = .push b) ∨ i = .srcEos ∨ ∃ e, i = .srcErr e) : exec i s = .next s := by
  have ha := State.accepts_eq_false_of_fault hs
  rcases hi with ⟨b, rfl⟩ | rfl | ⟨e, rfl⟩
  · change execPush b s = _
    simp [execPush, ha]
  · exact s.onEvent_of_not_accepts (·.answer .endOfStream) ha
  · exact s.onEvent_of_not_accepts (·.answer (.ioError e)) ha

end Sys2Proof.Machine

namespace Sys2Proof.Claims

open Sys2Proof Sys2Proof.Machine

/-- Everything an operation can do to the latch: leave it, set it by a failing flags row, clear it by `OPEN` or reset
(R19). -/
theorem exec_fault_cases {i : Instr} {s t : State} (h : exec i s = .next t) :
    t.fault = s.fault ∨
    (s.fault = none ∧ PerformsOneOf s i [.flagsNotEncrypted, .flagsStrong, .flagsStreamed]) ∨
    (t.fault = none ∧ OpensOrResets i) := by
  induction i using Instr.rowCases with
  | row op b =>
    rw [exec_instr] at h
    exact (runRow_fault_cases h).imp_right fun ⟨hs, hop⟩ => .inl ⟨hs, op, hop, b, .inl rfl⟩
  | push b =>
    change execPush b s = _ at h
    rcases execPush_cases s b with ⟨-, hp⟩ | ⟨-, op, u, hsel, hrow, hp⟩ | ⟨-, -, hp⟩
    · cases hp.symm.trans h
      exact .inl rfl
    · cases hp.symm.trans h
      exact (runRow_fault_cases hrow).imp_right fun ⟨hs, hop⟩ => .inl ⟨hs, op, hop, b, .inr ⟨rfl, hsel⟩⟩
    · cases hp.symm.trans h
  | srcEos => exact .inl (State.onEvent_keeps_fault (f := (·.answer .endOfStream)) h rfl)
  | srcErr e => exact .inl (State.onEvent_keeps_fault (f := (·.answer (.ioError e))) h rfl)
  | openSession p => exact (execOpen_fault_cases h).imp_right fun ht => .inr ⟨ht, .inl ⟨p, rfl⟩⟩
  | read => exact .inl (execRead_keeps_fault h)
  | close => exact .inl (execClose_keeps_fault h)
  | reset => cases h; exact .inr (.inr ⟨rfl, .inr rfl⟩)
  | crctab | crc32Step | updateKeys | deriveKsByte | initKeys | decryptByte | obs => cases h; exact .inl rfl

/-- Settles O47: what sets and what clears the latch are the cases of `exec_fault_cases`, and a latched violation leaves no
event to be accepted. -/
theorem faultLatchSetAndCleared : Obligations.FaultLatchSetAndCleared := by
  intro s t i h
  refine ⟨fun v hv => ?_, fun hs ht => ?_, fun hs hi => ?_, faultCode_cases t.fault⟩
  · rcases exec_fault_cases h with heq | hset | ⟨hclear, -⟩
    · exact .inl (heq ▸ hv)
    · exact .inr hset
    · simp [hclear] at hv
  · rcases exec_fault_cases h with heq | ⟨hnone, -⟩ | ⟨-, hi⟩
    · exact absurd (heq ▸ ht) hs
    · exact absurd hnone hs
    · exact hi
  · cases (exec_event_of_fault hs hi).symm.trans h
    rfl

end Sys2Proof.Claims
end

section
/-! SUPPORT. The keystream generator's key functions in natural numbers (spec rules R72, R74): the three keys that
`update_keys` makes, and the operations that perform `update_keys` and `init_keys`. -/

namespace Sys2Proof.Machine

/-- `k0 & 0xFF` of R72: the low byte of a word is its remainder by 256. -/
theorem toNat_and_lowByte (w : Word) : (w &&& 0xFF#32).toNat = w.toNat % 256 := by
  rw [BitVec.toNat_and]
  exact Nat.and_two_pow_sub_one_eq_mod w.toNat 8

/-- `byte_of(k1 >> 24)` of R72: the top byte of a word is its quotient by 2^24. -/
theorem topByte_eq_ofNat (w : Word) : w.extractLsb' 24 8 = BitVec.ofNat 8 (w.toNat / 2 ^ 24) := by
  simp [← BitVec.toNat_inj, Nat.shiftRight_eq_div_pow]

theorem Keys.update_k0 (k : Keys) (p : Byte) : (k.update p).k0 = crc32Step k.k0 p := rfl

theorem Keys.update_k1 (k : Keys) (p : Byte) :
    (k.update p).k1 = (k.k1 + ((k.update p).k0 &&& 0xFF#32)) * 134775813#32 + 1#32 := rfl

theorem Keys.update_k2 (k : Keys) (p : Byte) :
    (k.update p).k2 = crc32Step k.k2 ((k.update p).k1.extractLsb' 24 8) := rfl

/-- The second key (R72): wraparound arithmetic is arithmetic modulo 2^32. -/
theorem Keys.update_k1_toNat (k : Keys) (p : Byte) :
    (k.update p).k1.toNat = ((k.k1.toNat + (k.update p).k0.toNat % 256) * 134775813 + 1) % 2 ^ 32 := by
  rw [update_k1, BitVec.toNat_add, BitVec.toNat_mul, BitVec.toNat_add, toNat_and_lowByte]
  simp

/-- The third key (R72): the new `k1` enters through its top byte. -/
theorem Keys.update_k2_eq_ofNat (k : Keys) (p : Byte) :
    (k.update p).k2 = crc32Step k.k2 (BitVec.ofNat 8 ((k.update p).k1.toNat / 2 ^ 24)) := by
  rw [update_k2, topByte_eq_ofNat]

/-- `UPDATE_KEYS` writes the keys alone (R72). -/
theorem exec_updateKeys (p : Byte) (s : State) : exec (.updateKeys p) s = .next (s.withKeys (s.keys.update p)) := rfl

/-- `INIT_KEYS` writes the keys of the session's password and nothing else (R74). -/
theorem exec_initKeys {s : State} {p : List Byte} (h : s.pw = p) :
    exec .initKeys s = .next (s.withKeys (Keys.init p)) := h ▸ rfl

end Sys2Proof.Machine

namespace Sys2Proof.Claims

open Sys2Proof Sys2Proof.Machine

/-- Settles O3: the keys written are those of `Keys.update`, each given by its own equation. -/
theorem updateKeysWritesKeysInOrder : Obligations.UpdateKeysWritesKeysInOrder := by
  intro p s
  exact ⟨_, _, _, exec_updateKeys p s, s.keys.update_k0 p, s.keys.update_k1_toNat p, s.keys.update_k2_eq_ofNat p⟩

/-- Settles O6: `init_keys` folds `update_keys` over the password from the left, so the last byte is its last update. -/
theorem initKeysFoldsThePassword : Obligations.InitKeysFoldsThePassword := by
  refine ⟨fun s hpw => ?_, fun s p b hpw => ?_⟩
  · rw [exec_initKeys hpw, Keys.init_nil]
    rfl
  · refine ⟨_, _, exec_initKeys rfl, exec_updateKeys b _, ?_⟩
    rw [exec_initKeys hpw, Keys.init_append]
    rfl

end Sys2Proof.Claims
end

section
/-! SUPPORT. The header field tracker row by row (spec rules R81 to R98): what a row answers in a session that accepts
events, and the registers it writes in natural numbers. -/

namespace Sys2Proof.Machine

/-- A count taken down by no more than it holds is the natural difference (R81, R97, R98). -/
theorem sub_eq_ofNat {w n : Nat} {x : BitVec w} (h : n ≤ x.toNat) :
    x - BitVec.ofNat w n = BitVec.ofNat w (x.toNat - n) := by
  have hsub := BitVec.ofNat_sub_ofNat_of_le (w := w) x.toNat n (h.trans_lt x.isLt) h
  rwa [BitVec.ofNat_toNat, BitVec.setWidth_eq] at hsub

theorem zext32_toNat (b : Byte) : (zext32 b).toNat = b.toNat :=
  BitVec.toNat_setWidth_of_le (by decide)

/-- A byte collected into a field adds its value at its position (R53). -/
theorem add_fieldPart_eq_ofNat (x : Word) (b : Byte) (p : BitVec 2) :
    x + fieldPart b p = BitVec.ofNat 32 (x.toNat + b.toNat * 2 ^ (8 * p.toNat)) := by
  rw [BitVec.add_def, fieldPart_toNat]

/-- The second byte of a length adds 256 times its value (R92, R94). -/
theorem State.lengthWith_eq_ofNat (s : State) (b : Byte) :
    s.lengthWith b = BitVec.ofNat 32 (s.value.toNat + b.toNat * 256) :=
  add_fieldPart_eq_ofNat s.value b 1#2

/-- The emitted size byte for either value of `CSIZE_REWRITE` (R89, R90). -/
theorem csizeOut_eq (rewrite : Bool) (b inc : Byte) :
    csizeOut rewrite b inc = if rewrite then BitVec.ofNat 8 (b.toNat + 256 - inc.toNat) else b := by
  have hinc := inc.isLt
  have hsum : 2 ^ 8 - inc.toNat + b.toNat = b.toNat + 256 - inc.toNat := by omega
  unfold csizeOut
  rw [BitVec.sub_def, hsum]

/-- The borrow of a size byte for either value of `CSIZE_REWRITE` (R89). -/
theorem csizeBorrow_eq (rewrite : Bool) (b inc : Byte) :
    csizeBorrow rewrite b inc =
      if rewrite then (if b.toNat < inc.toNat then 1#8 else 0#8) else inc := rfl

/-- Clearing bit 0 of the flags byte keeps every other bit (R52, R85). -/
theorem clearEncrypted_getLsbD (b : Byte) {j : Nat} (hj : j < 8) :
    (clearEncrypted b).getLsbD j = if j = 0 then false else b.getLsbD j := by
  have hmask : (0xFE#8).getLsbD j = !decide (j = 0) := by
    revert j
    decide
  rw [clearEncrypted, BitVec.getLsbD_and, hmask]
  by_cases h : j = 0 <;> simp [h]

/-- What is left of the declared size after the encryption header, and where the tracker goes (R97). -/
theorem State.afterHeader_eq (s : State) :
    s.afterHeader = { s with
      compressedSize := BitVec.ofNat 32 (s.compressedSize.toNat - 12)
      state := if s.compressedSize.toNat ≤ 12 then .signature else .data } := by
  unfold State.afterHeader
  by_cases h : s.compressedSize.toNat ≤ 12
  · rw [if_pos (show s.compressedSize ≤ Config.encHdrLen from h), if_pos h, Nat.sub_eq_zero_of_le h]
  · rw [if_neg (show ¬ s.compressedSize ≤ Config.encHdrLen from h), if_neg h, ← sub_eq_ofNat (by omega)]
    rfl

/-- The payload counter in natural numbers: the tracker leaves `Data` with the last byte (R98). -/
theorem State.countData_eq (s : State) (h : 1 ≤ s.compressedSize.toNat) :
    s.countData = { s with
      compressedSize := BitVec.ofNat 32 (s.compressedSize.toNat - 1)
      state := if s.compressedSize.toNat = 1 then .signature else s.state } := by
  have hleft : s.compressedSize - 1#32 = BitVec.ofNat 32 (s.compressedSize.toNat - 1) := sub_eq_ofNat h
  have hlast : BitVec.ofNat 32 (s.compressedSize.toNat - 1) = 0#32 ↔ s.compressedSize.toNat = 1 := by bv_omega
  simp only [State.countData, hleft, hlast]

/-- A `Drop` is the disposition after which a `READ` goes on (R107). -/
theorem State.answer_drop (s : State) : s.answer .drop = { s with out := s.out ++ [.drop] } := by
  simp [State.answer]

end Sys2Proof.Machine

namespace Sys2Proof.Claims

open Sys2Proof Sys2Proof.Machine

/-- In a session that accepts events a row does what its pseudocode says (R80). -/
theorem Ready.exec_row {s : State} (h : Ready s) {i : Instr} {f : State → State}
    (hrow : ∀ u : State, exec i u = u.onEvent f) {t : State} (ht : f s = t) : exec i s = .next t := by
  rw [hrow, s.onEvent_of_accepts f (s.accepts_iff.mpr h), ht]

/-- An `Emit` ends a `READ` in progress (R107). -/
theorem answer_emit (s : State) (b : Byte) : s.answer (.emit b) = Answered s (.emit b) := by
  simp [State.answer, Answered]

/-- A violation is latched and answered, and ends a `READ` in progress (R107, R126). -/
theorem raise_eq_answered (s : State) (v : Violation) :
    s.raise v = Answered { s with fault := some v } (.fail v) := by
  simp [State.raise, State.answer, Answered]

/-- A signature byte that matches and is not the last (R82). -/
theorem matchMore_eq_answered (s : State) (b : Byte) :
    s.matchMore b = Answered { s with sigIdx := s.sigIdx + 1#2 } (.emit b) :=
  answer_emit _ b

/-- One of the first three size bytes (R89). -/
theorem csizeByte_eq_answered (s : State) (b : Byte) (rewrite : Bool) :
    s.csizeByte rewrite b = Answered { s with
        compressedSize := BitVec.ofNat 32 (s.compressedSize.toNat + b.toNat * 2 ^ (8 * s.valuePos.toNat))
        valueIncrement := if rewrite then (if b.toNat < s.valueIncrement.toNat then 1#8 else 0#8)
          else s.valueIncrement
        valuePos := BitVec.ofNat 2 (s.valuePos.toNat + 1) }
      (.emit (if rewrite then BitVec.ofNat 8 (b.toNat + 256 - s.valueIncrement.toNat) else b)) := by
  rw [State.csizeByte, answer_emit, add_fieldPart_eq_ofNat, csizeBorrow_eq, csizeOut_eq, BitVec.add_def]
  rfl

/-- The fourth size byte (R90). -/
theorem csizeLast_eq_answered (s : State) (b : Byte) (rewrite : Bool) :
    s.csizeLast rewrite b = Answered { s with
        compressedSize := BitVec.ofNat 32 (s.compressedSize.toNat + b.toNat * 2 ^ 24)
        value := 0#32
        valuePos := 0#2
        valueIncrement := 0#8
        skipBytes := 4#32
        state := .filenameLength }
      (.emit (if rewrite then BitVec.ofNat 8 (b.toNat + 256 - s.valueIncrement.toNat) else b)) := by
  have hsum : s.compressedSize + (zext32 b <<< 24) = BitVec.ofNat 32 (s.compressedSize.toNat + b.toNat * 2 ^ 24) :=
    add_fieldPart_eq_ofNat s.compressedSize b 3#2
  rw [State.csizeLast, answer_emit, hsum, csizeOut_eq]
  rfl

/-- The first byte of a length (R91, R93). -/
theorem lengthLow_eq_answered (s : State) (b : Byte) :
    s.lengthLow b = Answered { s with
      value := BitVec.ofNat 32 (s.value.toNat + b.toNat)
      valuePos := 1#2 } (.emit b) := by
  rw [State.lengthLow, answer_emit, BitVec.add_def, zext32_toNat]

/-- One of the header bytes 2 to 11 (R96). -/
theorem headerByte_eq (s : State) (b : Byte) :
    s.headerByte b = { s with
      keys := s.keys.afterDecrypt b
      hdrPos := BitVec.ofNat 4 (s.hdrPos.toNat + 1)
      out := s.out ++ [.drop] } := by
  rw [State.headerByte, State.answer_drop, BitVec.add_def]
  rfl

/-- Settles O8: `SKIP` counts down by one, and the count is not 0. -/
theorem skipRelaysAndCountsDown : Obligations.SkipRelaysAndCountsDown := by
  intro s b hready hskip
  have hpos : 1 ≤ s.skipBytes.toNat := by bv_omega
  refine hready.exec_row (fun _ => rfl) ?_
  rw [answer_emit, sub_eq_ofNat hpos]

/-- Settles O9: the three rows of R82 are one operation, which counts `sig_idx` up; R83 is the fourth. -/
theorem signatureMatchAdvances : Obligations.SignatureMatchAdvances := by
  intro s hready _ _
  refine ⟨fun hidx => ?_, fun hidx => ?_, fun hidx => ?_, fun _ => hready.exec_row (fun _ => rfl) (answer_emit _ _)⟩
  all_goals
    refine hready.exec_row (fun _ => rfl) ?_
    rw [matchMore_eq_answered, hidx]
    rfl

/-- Settles O10: `SIG_MISMATCH` gives up parsing whatever the byte, and passes it on. -/
theorem signatureMismatchGoesToTail : Obligations.SignatureMismatchGoesToTail :=
  fun _ b hready _ _ _ => hready.exec_row (fun _ => rfl) (answer_emit _ b)

/-- Settles O11: the emitted byte is the flags byte with bit 0 masked out. -/
theorem flagsOkClearsOnlyBit0 : Obligations.FlagsOkClearsOnlyBit0 := by
  intro s b hready _ _ _ _ _
  exact ⟨clearEncrypted b, fun _ hj => clearEncrypted_getLsbD b hj,
    hready.exec_row (fun _ => rfl) (answer_emit _ _)⟩

/-- Settles O12: each of the three rows is the one operation of fault entry, with its own violation. -/
theorem flagsViolationLatchesAndAnswersFail : Obligations.FlagsViolationLatchesAndAnswersFail := by
  intro s b hready _ _
  refine ⟨fun _ => ?_, fun _ _ => ?_, fun _ _ _ => ?_, rfl, rfl, rfl⟩
  all_goals exact hready.exec_row (fun _ => rfl) (raise_eq_answered s _)

/-- Settles O14: the three rows of R89 are one operation, which reads its position from `value_pos`. -/
theorem firstSizeBytesAccumulate : Obligations.FirstSizeBytesAccumulate := by
  rintro s b hready _ _ t rfl
  refine ⟨fun _ => ?_, fun _ => ?_, fun _ => ?_⟩
  all_goals exact hready.exec_row (fun _ => rfl) (csizeByte_eq_answered s b Config.csizeRewrite)

/-- Settles O15, for either value of `CSIZE_REWRITE` by `csizeLast_eq_answered`. -/
theorem fourthSizeByteGoesToFilenameLength : Obligations.FourthSizeByteGoesToFilenameLength :=
  fun s b hready _ _ _ => hready.exec_row (fun _ => rfl) (csizeLast_eq_answered s b Config.csizeRewrite)

/-- Settles O16: `FNLEN_LO` and `EFLEN_LO` are one operation. -/
theorem lowLengthByteGoesIntoValue : Obligations.LowLengthByteGoesIntoValue := by
  rintro s b hready _ _ t rfl
  refine ⟨fun _ => ?_, fun _ => ?_⟩
  all_goals exact hready.exec_row (fun _ => rfl) (lengthLow_eq_answered s b)

/-- Settles O17: `fn_len` takes the low 16 bits of the collected length. -/
theorem highFilenameLengthByteCompletesFnLen : Obligations.HighFilenameLengthByteCompletesFnLen := by
  intro s b hready _ _ _
  refine hready.exec_row (fun _ => rfl) ?_
  rw [answer_emit, State.lengthWith_eq_ofNat, BitVec.setWidth_ofNat_of_le (by decide)]

/-- Settles O18: `value` keeps the collected length, and `skip_bytes` is that length and `fn_len` together. -/
theorem highExtraLengthByteSetsSkip : Obligations.HighExtraLengthByteSetsSkip := by
  intro s b hready _ _ _
  have hskip : s.fnLen.setWidth 32 + BitVec.ofNat 32 (s.value.toNat + b.toNat * 256) =
      BitVec.ofNat 32 (s.fnLen.toNat + (s.value.toNat + b.toNat * 256)) := by
    rw [BitVec.ofNat_add s.fnLen.toNat, BitVec.ofNat_toNat]
  refine hready.exec_row (fun _ => rfl) ?_
  rw [answer_emit, State.lengthWith_eq_ofNat, hskip]

/-- Settles O19: the keys of the password, then one byte decrypted with them. -/
theorem firstHeaderByteInitialisesKeys : Obligations.FirstHeaderByteInitialisesKeys :=
  fun _ _ hready _ _ _ => ⟨_, _, rfl, rfl, hready.exec_row (fun _ => rfl) (State.answer_drop _)⟩

/-- Settles O20: the five rows of R96 are one operation. -/
theorem middleHeaderBytesDecryptAndDrop : Obligations.MiddleHeaderBytesDecryptAndDrop := by
  intro s b hready _ _
  refine ⟨_, rfl, ?_⟩
  rintro t rfl
  refine ⟨fun _ => ?_, fun _ => ?_, fun _ => ?_, fun _ => ?_, fun _ => ?_⟩
  all_goals exact hready.exec_row (fun _ => rfl) (headerByte_eq s b)

/-- Settles O21: after the twelfth byte `afterHeader_eq` says what is left of the declared size. -/
theorem lastHeaderByteSaturates : Obligations.LastHeaderByteSaturates := by
  intro s b hready _ _ _
  refine ⟨_, rfl, hready.exec_row (fun _ => rfl) ?_⟩
  rw [State.answer_drop, State.afterHeader_eq]
  rfl

/-- Settles O22: the byte goes out decrypted, and `countData_eq` says how it is counted. -/
theorem dataByteEmitsPlaintextAndCounts : Obligations.DataByteEmitsPlaintextAndCounts := by
  intro s b hready _ hdata hleft
  refine ⟨_, _, rfl, rfl, hready.exec_row (fun _ => rfl) ?_⟩
  rw [answer_emit, State.countData_eq (s.withKeys (s.keys.afterDecrypt b)) hleft, State.withKeys_state, hdata]
  rfl

end Sys2Proof.Claims
end

section
/-! SUPPORT. Which row a decode word selects (spec rules R56, R57): no two rows apply to one word, so a row that applies is
the selected one; and the order of tests of R80 names the row that applies. -/

namespace Sys2Proof

theorem StepRow.applies_iff {r : StepRow} {dw : DecodeWord} : r.applies dw = true ↔ dw &&& r.mask = r.pattern :=
  beq_iff_eq

/-- Two rows that apply to one word agree in the bits both of them fix. -/
theorem StepRow.agree_of_applies {r r' : StepRow} {dw : DecodeWord} (h : r.applies dw = true)
    (h' : r'.applies dw = true) : r.pattern &&& r'.mask = r'.pattern &&& r.mask := by
  rw [← applies_iff.mp h, ← applies_iff.mp h', BitVec.and_assoc, BitVec.and_assoc, BitVec.and_comm r.mask]

/-- Two rows of the table differ in a bit that both of them fix (R57). -/
theorem stepRows_eq_of_agree :
    ∀ r ∈ stepRows, ∀ r' ∈ stepRows, r.pattern &&& r'.mask = r'.pattern &&& r.mask → r = r' := by
  decide

/-- A row of the table that agrees with the fallback row is one of the four signature bytes, which fix the whole word. -/
theorem mem_signatureWords_of_agree_fallback :
    ∀ r ∈ stepRows, r.pattern &&& fallbackRow.mask = fallbackRow.pattern &&& r.mask →
      r.mask = BitVec.allOnes 16 ∧ r.pattern ∈ [0x0050#16, 0x014B#16, 0x0203#16, 0x0304#16] := by
  decide

/-- A row of the table that applies is the one selected (R57). -/
theorem selectStep_of_applies {r : StepRow} {dw : DecodeWord} (hr : r ∈ stepRows) (h : r.applies dw = true) :
    selectStep dw = .ok r.op := by
  unfold selectStep
  cases hfind : stepRows.find? (fun r => r.applies dw) with
  | none => exact absurd h (List.find?_eq_none.mp hfind r hr)
  | some r' =>
    have happ : r'.applies dw = true := List.find?_some (p := (StepRow.applies · dw)) hfind
    rw [stepRows_eq_of_agree r' (List.mem_of_find?_eq_some hfind) r hr (StepRow.agree_of_applies happ h)]

/-- The fallback row is selected where it applies and the byte is not the signature's there (R84). -/
theorem selectStep_of_fallback {dw : DecodeWord} (h : fallbackRow.applies dw = true)
    (hne : dw ∉ [0x0050#16, 0x014B#16, 0x0203#16, 0x0304#16]) : selectStep dw = .ok .sigMismatch := by
  unfold selectStep
  cases hfind : stepRows.find? (fun r => r.applies dw) with
  | none => exact if_pos h
  | some r =>
    have happ : r.applies dw = true := List.find?_some (p := (StepRow.applies · dw)) hfind
    obtain ⟨hmask, hmem⟩ := mem_signatureWords_of_agree_fallback r (List.mem_of_find?_eq_some hfind)
      (StepRow.agree_of_applies happ h)
    rw [StepRow.applies_iff, hmask, BitVec.and_allOnes] at happ
    exact absurd (happ ▸ hmem) hne

/-- The input byte of a decode word is the operand of the operation decoded from it (R56). -/
theorem decodeStep_pack_of_selectStep {n : Bool} {st : BitVec 3} {idx : BitVec 4} {b : Byte} {op : StepOp}
    (h : selectStep (packDecodeWord n st idx b) = .ok op) :
    decodeStep (packDecodeWord n st idx b) = .ok (op.instr b) :=
  decodeStep_eq_ok.mpr ⟨op, h, by rw [dwByte_pack]⟩

/-- A row that leaves the byte open is selected by the control position alone: it applies for every byte if it does
for 0. -/
theorem decodeStep_pack_of_position {n : Bool} {st : BitVec 3} {idx : BitVec 4} (b : Byte) (op : StepOp)
    (h : ∃ r ∈ stepRows, r.op = op ∧ dwByte r.mask = 0#8 ∧ r.applies (packDecodeWord n st idx 0#8) = true) :
    decodeStep (packDecodeWord n st idx b) = .ok (op.instr b) := by
  obtain ⟨r, hr, rfl, hopen, happ⟩ := h
  have hmask : ∀ i < 8, r.mask.getLsbD i = false := fun i hi => by
    simpa [dwByte, hi] using congrArg (fun v : Byte => v.getLsbD i) hopen
  have hsame : packDecodeWord n st idx b &&& r.mask = packDecodeWord n st idx 0#8 &&& r.mask := by
    apply BitVec.eq_of_getLsbD_eq
    intro i _
    rw [BitVec.getLsbD_and, BitVec.getLsbD_and]
    by_cases hi : i < 8
    · simp [hmask i hi]
    · simp [pack_getLsbD, hi]
  refine decodeStep_pack_of_selectStep (selectStep_of_applies hr ?_)
  rwa [StepRow.applies_iff, hsame, ← StepRow.applies_iff]

/-- A byte masked is known by its bits where the mask has them (R52). -/
theorem byte_and_eq_of_getLsbD {b m p : Byte} (h : ∀ j : Fin 8, (b.getLsbD j && m.getLsbD j) = p.getLsbD j) :
    b &&& m = p :=
  BitVec.eq_of_getLsbD_eq fun i hi => (BitVec.getLsbD_and ..).trans (h ⟨i, hi⟩)

/-- A flags row is selected by the bits of the byte that it fixes (R85 to R88). -/
theorem decodeStep_flags {b m p : Byte} (op : StepOp) (hrow : ⟨0x10#8 ++ p, 0xF0#8 ++ m, op⟩ ∈ stepRows)
    (h : ∀ j : Fin 8, (b.getLsbD j && m.getLsbD j) = p.getLsbD j) :
    decodeStep (packDecodeWord false 1#3 0#4 b) = .ok (op.instr b) :=
  decodeStep_pack_of_selectStep (selectStep_of_applies hrow (StepRow.applies_iff.mpr
    (Laws.TableWords.step_word 0x10#8 b 0x10#8 p 0xF0#8 m rfl (byte_and_eq_of_getLsbD h))))

/-- The four fields of a decode word at a signature position determine position and byte (R56). -/
theorem signatureWord_inj {i j : BitVec 2} {b c : Byte}
    (h : packDecodeWord false 0#3 (i.setWidth 4) b = packDecodeWord false 0#3 (j.setWidth 4) c) : i = j ∧ b = c := by
  have hidx := congrArg dwIdx h
  have hbyte := congrArg dwByte h
  rw [dwIdx_pack, dwIdx_pack] at hidx
  rw [dwByte_pack, dwByte_pack] at hbyte
  exact ⟨by bv_omega, hbyte⟩

/-- The fallback row applies at every signature position, whatever the byte (R84). -/
theorem fallbackRow_applies_signature (i : BitVec 2) (b : Byte) :
    fallbackRow.applies (packDecodeWord false 0#3 (i.setWidth 4) b) = true := by
  have hpos : ∀ i : BitVec 2, (BitVec.ofBool false ++ 0#3 ++ i.setWidth 4 : BitVec 8) &&& 0xFC#8 = 0x00#8 := by
    decide
  exact StepRow.applies_iff.mpr
    (Laws.TableWords.step_word _ b 0x00#8 0x00#8 0xFC#8 0x00#8 (hpos i) BitVec.and_zero)

end Sys2Proof

namespace Sys2Proof.Claims

open Sys2Proof Sys2Proof.Machine

section

variable {s : State} (b : Byte)

/-- A byte to be skipped selects `SKIP`, whatever the rest of the control position (R81). -/
theorem decodeStep_skip (hskip : s.skipBytes ≠ 0#32) :
    decodeStep (s.decodeWord b) = .ok (dispatchR80 s b) := by
  have hrow : ∀ (st : BitVec 3) (idx : BitVec 4), ∃ r ∈ stepRows, r.op = .skip ∧ dwByte r.mask = 0#8 ∧
      r.applies (packDecodeWord true st idx 0#8) = true := by
    decide
  rw [State.decodeWord, bne_iff_ne.mpr hskip, dispatchR80, if_pos hskip]
  exact decodeStep_pack_of_position b .skip (hrow _ _)

/-- With nothing to skip the decode word is the parser state, its position register and the byte (R56). -/
theorem decodeWord_of_skip_zero (hskip : s.skipBytes = 0#32) :
    s.decodeWord b = packDecodeWord false s.state.code s.idx b := by
  rw [State.decodeWord, hskip]
  rfl

/-- The byte of the signature at `sig_idx` selects the matching row, any other the fallback (R82 to R84). -/
theorem decodeStep_signature (hskip : s.skipBytes = 0#32) (hst : s.state = .signature) :
    decodeStep (s.decodeWord b) = .ok (dispatchR80 s b) := by
  simp only [decodeWord_of_skip_zero b hskip, dispatchR80, State.idx, hskip, hst, ne_self_iff_false, if_false]
  generalize s.sigIdx = i
  split_ifs with hm0 hm1 hm2 hm3
  · obtain ⟨rfl, rfl⟩ := hm0; rfl
  · obtain ⟨rfl, rfl⟩ := hm1; rfl
  · obtain ⟨rfl, rfl⟩ := hm2; rfl
  · obtain ⟨rfl, rfl⟩ := hm3; rfl
  · refine decodeStep_pack_of_selectStep (selectStep_of_fallback (fallbackRow_applies_signature i b) ?_)
    simp only [List.mem_cons, List.not_mem_nil, or_false, not_or]
    exact ⟨fun h => hm0 (signatureWord_inj h), fun h => hm1 (signatureWord_inj h),
      fun h => hm2 (signatureWord_inj h), fun h => hm3 (signatureWord_inj h)⟩

/-- Bits 0, 6 and 3 of the byte, in this order, select the flags row (R85 to R88). -/
theorem decodeStep_flagsByte (hskip : s.skipBytes = 0#32) (hst : s.state = .flags) :
    decodeStep (s.decodeWord b) = .ok (dispatchR80 s b) := by
  simp only [decodeWord_of_skip_zero b hskip, dispatchR80, State.idx, hskip, hst, ne_self_iff_false, if_false]
  split_ifs with hb0 hb6 hb3
  · refine decodeStep_flags (p := 0x00#8) (m := 0x01#8) .flagsNotEncrypted (by decide) ?_
    simp_all [Fin.forall_fin_succ]
  · refine decodeStep_flags (p := 0x41#8) (m := 0x41#8) .flagsStrong (by decide) ?_
    simp_all [Fin.forall_fin_succ]
  · refine decodeStep_flags (p := 0x09#8) (m := 0x49#8) .flagsStreamed (by decide) ?_
    simp_all [Fin.forall_fin_succ]
  · refine decodeStep_flags (p := 0x01#8) (m := 0x49#8) .flagsOk (by decide) ?_
    simp_all [Fin.forall_fin_succ]

/-- `value_pos` selects the row of the compressed size (R89, R90). -/
theorem decodeStep_compressedSize (hskip : s.skipBytes = 0#32) (hst : s.state = .compressedSize) :
    decodeStep (s.decodeWord b) = .ok (dispatchR80 s b) := by
  simp only [decodeWord_of_skip_zero b hskip, dispatchR80, State.idx, hskip, hst, ne_self_iff_false, if_false]
  generalize s.valuePos = p
  split_ifs
  · exact decodeStep_pack_of_position b .csizeB3 (by revert p; decide)
  · exact decodeStep_pack_of_position b .csizeB0 (by revert p; decide)
  · exact decodeStep_pack_of_position b .csizeB1 (by revert p; decide)
  · exact decodeStep_pack_of_position b .csizeB2 (by revert p; decide)

/-- `value_pos` selects the row of the filename length (R91, R92). -/
theorem decodeStep_filenameLength (hskip : s.skipBytes = 0#32) (hst : s.state = .filenameLength)
    (hpos : s.valuePos.toNat ≤ 1) : decodeStep (s.decodeWord b) = .ok (dispatchR80 s b) := by
  simp only [decodeWord_of_skip_zero b hskip, dispatchR80, State.idx, hskip, hst, ne_self_iff_false, if_false]
  generalize s.valuePos = p at hpos
  split_ifs
  · exact decodeStep_pack_of_position b .fnlenHi (by revert p; decide)
  · exact decodeStep_pack_of_position b .fnlenLo (by revert p; decide)

/-- `value_pos` selects the row of the extra-field length (R93, R94). -/
theorem decodeStep_extraFieldLength (hskip : s.skipBytes = 0#32) (hst : s.state = .extraFieldLength)
    (hpos : s.valuePos.toNat ≤ 1) : decodeStep (s.decodeWord b) = .ok (dispatchR80 s b) := by
  simp only [decodeWord_of_skip_zero b hskip, dispatchR80, State.idx, hskip, hst, ne_self_iff_false, if_false]
  generalize s.valuePos = p at hpos
  split_ifs
  · exact decodeStep_pack_of_position b .eflenHi (by revert p; decide)
  · exact decodeStep_pack_of_position b .eflenLo (by revert p; decide)

/-- `hdr_pos` selects the row of the encryption header (R95 to R97). -/
theorem decodeStep_encryptionHeader (hskip : s.skipBytes = 0#32) (hst : s.state = .encryptionHeader)
    (hpos : s.hdrPos.toNat ≤ 11) : decodeStep (s.decodeWord b) = .ok (dispatchR80 s b) := by
  simp only [decodeWord_of_skip_zero b hskip, dispatchR80, State.idx, hskip, hst, ne_self_iff_false, if_false]
  generalize s.hdrPos = p at hpos
  split_ifs
  · exact decodeStep_pack_of_position b .enchdrB0 (by revert p; decide)
  · exact decodeStep_pack_of_position b .enchdrB11 (by revert p; decide)
  · exact decodeStep_pack_of_position b .enchdrMid1 (by revert p; decide)
  · exact decodeStep_pack_of_position b .enchdrMid2to3 (by revert p; decide)
  · exact decodeStep_pack_of_position b .enchdrMid4to7 (by revert p; decide)
  · exact decodeStep_pack_of_position b .enchdrMid8to9 (by revert p; decide)
  · exact decodeStep_pack_of_position b .enchdrMid10 (by revert p; decide)

/-- The order of tests of R80 names the row the decode word selects, wherever the positions are those a session can reach
(R17, R25). -/
theorem decodeStep_decodeWord (hinv : s.Inv) : decodeStep (s.decodeWord b) = .ok (dispatchR80 s b) := by
  by_cases hskip : s.skipBytes = 0#32
  · cases hst : s.state with
    | signature => exact decodeStep_signature b hskip hst
    | flags => exact decodeStep_flagsByte b hskip hst
    | compressedSize => exact decodeStep_compressedSize b hskip hst
    | filenameLength => exact decodeStep_filenameLength b hskip hst (hinv.length_partial (.inl hst)).1
    | extraFieldLength => exact decodeStep_extraFieldLength b hskip hst (hinv.length_partial (.inr hst)).1
    | encryptionHeader => exact decodeStep_encryptionHeader b hskip hst hinv.hdr_pos_le
    | data =>
      simp only [decodeWord_of_skip_zero b hskip, dispatchR80, State.idx, hskip, hst, ne_self_iff_false, if_false]
      exact decodeStep_pack_of_position b .dataByte (by decide)
    | tail =>
      simp only [decodeWord_of_skip_zero b hskip, dispatchR80, State.idx, hskip, hst, ne_self_iff_false, if_false]
      exact decodeStep_pack_of_position b .tailByte (by decide)
  · exact decodeStep_skip b hskip

/-- An accepted byte performs the operation its decode word decodes to (R80, R104). -/
theorem Ready.exec_push {i : Instr} (h : Ready s) (hdec : decodeStep (s.decodeWord b) = .ok i) :
    exec (.push b) s = exec i s := by
  obtain ⟨op, hsel, rfl⟩ := decodeStep_eq_ok.mp hdec
  have hbyte : dwByte (s.decodeWord b) = b := dwByte_pack ..
  rw [hbyte, exec_instr]
  change execPush b s = _
  rw [execPush, if_pos (s.accepts_iff.mpr h), State.stepByte, hsel]

end

/-- Settles O24: a `PUSH` performs what its decode word decodes to, and `decodeStep_decodeWord` says what that is. -/
theorem pushPerformsTheRowOfR80 : Obligations.PushPerformsTheRowOfR80 :=
  fun _ b hinv hready => hready.exec_push b (decodeStep_decodeWord b hinv)

end Sys2Proof.Claims
end

section
/-! SUPPORT. The relay (spec rules R103, R105, R106, R108): what `OPEN` and `CLOSE` answer with and without a session, and the
end and an error of the source. -/

namespace Sys2Proof.Machine

/-- `OPEN` with no session open starts one: the registers cleared, the password stored (R103). -/
theorem exec_openSession_of_closed {s : State} (p : List Byte) (h : s.sessionOpen = false) :
    exec (.openSession p) s = .next ({ s.clearSession with pw := p, sessionOpen := true }.respond .ok) :=
  if_neg (Bool.eq_false_iff.mp h)

/-- `OPEN` with a session open is refused (R103). -/
theorem exec_openSession_of_open {s : State} (p : List Byte) (h : s.sessionOpen = true) :
    exec (.openSession p) s = .next (s.respond .refused) :=
  if_pos h

/-- `CLOSE` with a session open ends it and releases the source (R108). -/
theorem exec_close_of_open {s : State} (h : s.sessionOpen = true) :
    exec .close s = .next ({ s with sessionOpen := false, releases := s.releases + 1 }.respond .ok) :=
  if_pos h

/-- `CLOSE` with no session open does nothing but answer (R108). -/
theorem exec_close_of_closed {s : State} (h : s.sessionOpen = false) : exec .close s = .next (s.respond .ok) :=
  if_neg (Bool.eq_false_iff.mp h)

end Sys2Proof.Machine

namespace Sys2Proof.Claims

open Sys2Proof Sys2Proof.Machine

/-- Any disposition but a `Drop` is the answer of a `READ` in progress and ends it (R107). -/
theorem answer_eq_answered_of_ne_drop (s : State) {d : Disposition} (h : d ≠ .drop) : s.answer d = Answered s d := by
  simp [State.answer, Answered, h]

/-- Settles O31: either event is accepted and only answered, and neither answer is a `Drop`. -/
theorem endAndErrorPassThrough : Obligations.EndAndErrorPassThrough := fun s hready =>
  ⟨hready.exec_row (fun _ => rfl) (answer_eq_answered_of_ne_drop s (by simp)),
    fun _ => hready.exec_row (fun _ => rfl) (answer_eq_answered_of_ne_drop s (by simp))⟩

/-- Settles O32: `clearSession` holds the values after `OPEN` of R27. -/
theorem openStartsAFreshSession : Obligations.OpenStartsAFreshSession := fun _ p =>
  ⟨exec_openSession_of_closed p, exec_openSession_of_open p⟩

/-- Settles O35: the source is released in the case of an open session alone. -/
theorem closeReleasesOnce : Obligations.CloseReleasesOnce := fun _ =>
  ⟨exec_close_of_open, exec_close_of_closed⟩

end Sys2Proof.Claims
end

section
/-! SUPPORT. The priority of the format violations (spec rules R121 to R125): a flags byte that is pushed leaves in the fault
latch what the model's flags check answers for it. -/

namespace Sys2Proof.Claims

open Sys2Proof Sys2Proof.Machine

/-- At `Flags` with nothing to skip, the tests of R80 are those of bits 0, 6 and 3, in this order (R125). -/
theorem dispatchR80_flags {s : State} (b : Byte) (hskip : s.skipBytes = 0#32) (hst : s.state = .flags) :
    dispatchR80 s b =
      if b.getLsbD 0 = false then .flagsNotEncrypted b
      else if b.getLsbD 6 = true then .flagsStrong b
      else if b.getLsbD 3 = true then .flagsStreamed b
      else .flagsOk b := by
  rw [dispatchR80, if_neg (not_not.mpr hskip), hst]

/-- The flags check of the model, with its tests as R80 writes them (R125). -/
theorem flagsViolation_eq (b : Byte) :
    flagsViolation b =
      if b.getLsbD 0 = false then some .notEncrypted
      else if b.getLsbD 6 = true then some .strongEncryptionUnsupported
      else if b.getLsbD 3 = true then some .unsupportedStreamedFormat
      else none := by
  unfold flagsViolation flagEncrypted flagStrong flagStreamed
  cases b.getLsbD 0 <;> rfl

/-- A pushed flags byte leaves in the latch the violation it raises, if any (R121 to R125). -/
theorem Ready.exec_push_flags_fault {s : State} (hready : Ready s) (b : Byte) (hskip : s.skipBytes = 0#32)
    (hst : s.state = .flags) : ∃ t, exec (.push b) s = .next t ∧ t.fault = flagsViolation b := by
  obtain ⟨hnotEncrypted, hstrong, hstreamed, -⟩ := flagsViolationLatchesAndAnswersFail s b hready hskip hst
  rw [hready.exec_push b (decodeStep_flagsByte b hskip hst), dispatchR80_flags b hskip hst, flagsViolation_eq]
  split_ifs with h0 h6 h3
  · exact ⟨_, hnotEncrypted h0, rfl⟩
  · exact ⟨_, hstrong (Bool.eq_true_of_not_eq_false h0) h6, rfl⟩
  · exact ⟨_, hstreamed (Bool.eq_true_of_not_eq_false h0) (Bool.eq_false_of_not_eq_true h6) h3, rfl⟩
  · obtain ⟨_, -, hok⟩ := flagsOkClearsOnlyBit0 s b hready hskip hst (Bool.eq_true_of_not_eq_false h0)
      (Bool.eq_false_of_not_eq_true h6) (Bool.eq_false_of_not_eq_true h3)
    exact ⟨_, hok, hready.2⟩

/-- Settles O13: the latch holds what the flags check answers, and its four cases exclude one another. -/
theorem pushedFlagsByteRaisesByPriority : Obligations.PushedFlagsByteRaisesByPriority := by
  intro s b hready hskip hst
  obtain ⟨t, hpush, hfault⟩ := hready.exec_push_flags_fault b hskip hst
  refine ⟨t, hpush, ?_⟩
  rw [hfault]
  rcases flagsViolation_cases b with ⟨hv, h0⟩ | ⟨hv, h0, h6⟩ | ⟨hv, h0, h6, h3⟩ | ⟨hv, h0, h6, h3⟩
  · rw [hv, h0]; simp
  · rw [hv, h0, h6]; simp
  · rw [hv, h0, h6, h3]; simp
  · rw [hv, h0, h6, h3]; simp

end Sys2Proof.Claims
end

section
/-! SUPPORT. Every row of the tracker in one form (spec rules R80 to R99): the registers it writes and the disposition it
gives. The configuration's `CSIZE_REWRITE = 0` is used (log 5). -/

namespace Sys2Proof.Machine

/-- The session registers after a row of the tracker, no disposition given yet (R81 to R99). -/
def rowRegs : StepOp → Byte → State → State
  | .skip, _, s => { s with skipBytes := s.skipBytes - 1#32 }
  | .sigM0, _, s | .sigM1, _, s | .sigM2, _, s => { s with sigIdx := s.sigIdx + 1#2 }
  | .sigM3, _, s => { s with sigIdx := 0#2, skipBytes := 2#32, state := .flags }
  | .sigMismatch, _, s => { s with sigIdx := 0#2, state := .tail }
  | .flagsOk, _, s =>
    { s with compressedSize := 0#32, valuePos := 0#2, valueIncrement := 0#8, skipBytes := 11#32,
             state := .compressedSize }
  | .flagsNotEncrypted, _, s => { s with fault := some .notEncrypted }
  | .flagsStrong, _, s => { s with fault := some .strongEncryptionUnsupported }
  | .flagsStreamed, _, s => { s with fault := some .unsupportedStreamedFormat }
  | .csizeB0, b, s | .csizeB1, b, s | .csizeB2, b, s =>
    { s with compressedSize := s.compressedSize + fieldPart b s.valuePos, valuePos := s.valuePos + 1#2 }
  | .csizeB3, b, s =>
    { s with compressedSize := s.compressedSize + fieldPart b 3#2, value := 0#32, valuePos := 0#2,
             valueIncrement := 0#8, skipBytes := 4#32, state := .filenameLength }
  | .fnlenLo, b, s | .eflenLo, b, s => { s with value := s.value + zext32 b, valuePos := 1#2 }
  | .fnlenHi, b, s =>
    { s with fnLen := (s.lengthWith b).setWidth 16, value := 0#32, valuePos := 0#2, state := .extraFieldLength }
  | .eflenHi, b, s =>
    { s with value := s.lengthWith b, skipBytes := s.fnLen.setWidth 32 + s.lengthWith b, valuePos := 0#2,
             hdrPos := 0#4, state := .encryptionHeader }
  | .enchdrB0, b, s => { s with keys := (Keys.init s.pw).afterDecrypt b, hdrPos := 1#4 }
  | .enchdrMid1, b, s | .enchdrMid2to3, b, s | .enchdrMid4to7, b, s | .enchdrMid8to9, b, s | .enchdrMid10, b, s =>
    { s with keys := s.keys.afterDecrypt b, hdrPos := s.hdrPos + 1#4 }
  | .enchdrB11, b, s =>
    { s with keys := s.keys.afterDecrypt b, hdrPos := 0#4,
             compressedSize := BitVec.ofNat 32 (s.compressedSize.toNat - 12)
             state := if s.compressedSize.toNat ≤ 12 then .signature else .data }
  | .dataByte, b, s =>
    { s with keys := s.keys.afterDecrypt b, compressedSize := s.compressedSize - 1#32
             state := if s.compressedSize - 1#32 = 0#32 then .signature else s.state }
  | .tailByte, _, s => s

/-- The disposition a row of the tracker gives (R81 to R99). -/
def rowDisposition : StepOp → Byte → State → Disposition
  | .flagsOk, b, _ => .emit (clearEncrypted b)
  | .flagsNotEncrypted, _, _ => .fail .notEncrypted
  | .flagsStrong, _, _ => .fail .strongEncryptionUnsupported
  | .flagsStreamed, _, _ => .fail .unsupportedStreamedFormat
  | .enchdrB0, _, _ | .enchdrMid1, _, _ | .enchdrMid2to3, _, _ | .enchdrMid4to7, _, _ | .enchdrMid8to9, _, _
  | .enchdrMid10, _, _ | .enchdrB11, _, _ => .drop
  | .dataByte, b, s => .emit (s.keys.plain b)
  | _, b, _ => .emit b

/-- The state after a row whose byte was accepted: its registers, then its disposition (R80). -/
def State.afterRow (s : State) (op : StepOp) (b : Byte) : State := (rowRegs op b s).answer (rowDisposition op b s)

/-- Every row writes its registers and gives its disposition, for an accepted byte only (R80). -/
theorem runRow_eq (op : StepOp) (b : Byte) (s : State) : runRow op b s = s.onEvent (·.afterRow op b) := by
  cases op
  case enchdrB11 =>
    simp only [runRow, execEnchdrB11, State.afterHeader_eq]
    rfl
  all_goals rfl

theorem runRow_of_accepts (op : StepOp) (b : Byte) {s : State} (h : s.accepts = true) :
    runRow op b s = .next (s.afterRow op b) :=
  (runRow_eq op b s).trans (s.onEvent_of_accepts _ h)

-- What no row writes, and what its disposition does (R34, R107)

namespace State

variable (s : State) (op : StepOp) (b : Byte)

@[simp] theorem afterRow_sessionOpen : (s.afterRow op b).sessionOpen = s.sessionOpen := by cases op <;> rfl
@[simp] theorem afterRow_pw : (s.afterRow op b).pw = s.pw := by cases op <;> rfl
@[simp] theorem afterRow_opening : (s.afterRow op b).opening = s.opening := by cases op <;> rfl
@[simp] theorem afterRow_pins : (s.afterRow op b).pins = s.pins := by cases op <;> rfl
@[simp] theorem afterRow_cmds : (s.afterRow op b).cmds = s.cmds := by cases op <;> rfl
@[simp] theorem afterRow_pwBeats : (s.afterRow op b).pwBeats = s.pwBeats := by cases op <;> rfl
@[simp] theorem afterRow_src : (s.afterRow op b).src = s.src := by cases op <;> rfl
@[simp] theorem afterRow_releases : (s.afterRow op b).releases = s.releases := by cases op <;> rfl
@[simp] theorem afterRow_result : (s.afterRow op b).result = s.result := by cases op <;> rfl
@[simp] theorem afterRow_obsSample : (s.afterRow op b).obsSample = s.obsSample := by cases op <;> rfl

@[simp] theorem afterRow_out : (s.afterRow op b).out = s.out ++ [rowDisposition op b s] := by cases op <;> rfl

@[simp] theorem afterRow_reading :
    (s.afterRow op b).reading = (s.reading && rowDisposition op b s == .drop) := by cases op <;> rfl

end State

/-- A row gives an `Emit`, a `Drop`, or a `Fail`, which latches its violation (R104, R126). -/
theorem rowDisposition_cases (op : StepOp) (b : Byte) (s : State) :
    (∃ e, rowDisposition op b s = .emit e ∧ (s.afterRow op b).fault = s.fault) ∨
    (rowDisposition op b s = .drop ∧ (s.afterRow op b).fault = s.fault) ∨
    ∃ v, rowDisposition op b s = .fail v ∧ (s.afterRow op b).fault = some v := by
  cases op
  case flagsNotEncrypted | flagsStrong | flagsStreamed => exact .inr (.inr ⟨_, rfl, rfl⟩)
  case enchdrB0 | enchdrMid1 | enchdrMid2to3 | enchdrMid4to7 | enchdrMid8to9 | enchdrMid10 | enchdrB11 =>
    exact .inr (.inl ⟨rfl, rfl⟩)
  all_goals exact .inl ⟨_, rfl, rfl⟩

end Sys2Proof.Machine
end

section
/-! SUPPORT. Where each row of the tracker is performed (spec rules R57, R80): the control position and the byte that select
it. A position no row is selected at is stuck (R61 item 6; log 10). -/

namespace Sys2Proof.Machine

open Sys2Proof.Claims

/-- The control position, with the byte, at which a row is selected (R81 to R99). -/
inductive AtRow (s : State) (b : Byte) : StepOp → Prop
  | skip (hskip : s.skipBytes ≠ 0#32) : AtRow s b .skip
  | sigM0 (hskip : s.skipBytes = 0#32) (hst : s.state = .signature) (hidx : s.sigIdx = 0#2) (hb : b = 0x50#8) :
    AtRow s b .sigM0
  | sigM1 (hskip : s.skipBytes = 0#32) (hst : s.state = .signature) (hidx : s.sigIdx = 1#2) (hb : b = 0x4B#8) :
    AtRow s b .sigM1
  | sigM2 (hskip : s.skipBytes = 0#32) (hst : s.state = .signature) (hidx : s.sigIdx = 2#2) (hb : b = 0x03#8) :
    AtRow s b .sigM2
  | sigM3 (hskip : s.skipBytes = 0#32) (hst : s.state = .signature) (hidx : s.sigIdx = 3#2) (hb : b = 0x04#8) :
    AtRow s b .sigM3
  | sigMismatch (hskip : s.skipBytes = 0#32) (hst : s.state = .signature)
    (hne : [0x50#8, 0x4B#8, 0x03#8, 0x04#8][s.sigIdx.toNat]? ≠ some b) : AtRow s b .sigMismatch
  | flagsNotEncrypted (hskip : s.skipBytes = 0#32) (hst : s.state = .flags) (h0 : b.getLsbD 0 = false) :
    AtRow s b .flagsNotEncrypted
  | flagsStrong (hskip : s.skipBytes = 0#32) (hst : s.state = .flags) (h0 : b.getLsbD 0 = true)
    (h6 : b.getLsbD 6 = true) : AtRow s b .flagsStrong
  | flagsStreamed (hskip : s.skipBytes = 0#32) (hst : s.state = .flags) (h0 : b.getLsbD 0 = true)
    (h6 : b.getLsbD 6 = false) (h3 : b.getLsbD 3 = true) : AtRow s b .flagsStreamed
  | flagsOk (hskip : s.skipBytes = 0#32) (hst : s.state = .flags) (h0 : b.getLsbD 0 = true)
    (h6 : b.getLsbD 6 = false) (h3 : b.getLsbD 3 = false) : AtRow s b .flagsOk
  | csizeB0 (hskip : s.skipBytes = 0#32) (hst : s.state = .compressedSize) (hpos : s.valuePos = 0#2) : AtRow s b .csizeB0
  | csizeB1 (hskip : s.skipBytes = 0#32) (hst : s.state = .compressedSize) (hpos : s.valuePos = 1#2) : AtRow s b .csizeB1
  | csizeB2 (hskip : s.skipBytes = 0#32) (hst : s.state = .compressedSize) (hpos : s.valuePos = 2#2) : AtRow s b .csizeB2
  | csizeB3 (hskip : s.skipBytes = 0#32) (hst : s.state = .compressedSize) (hpos : s.valuePos = 3#2) : AtRow s b .csizeB3
  | fnlenLo (hskip : s.skipBytes = 0#32) (hst : s.state = .filenameLength) (hpos : s.valuePos = 0#2) : AtRow s b .fnlenLo
  | fnlenHi (hskip : s.skipBytes = 0#32) (hst : s.state = .filenameLength) (hpos : s.valuePos = 1#2) : AtRow s b .fnlenHi
  | eflenLo (hskip : s.skipBytes = 0#32) (hst : s.state = .extraFieldLength) (hpos : s.valuePos = 0#2) :
    AtRow s b .eflenLo
  | eflenHi (hskip : s.skipBytes = 0#32) (hst : s.state = .extraFieldLength) (hpos : s.valuePos = 1#2) :
    AtRow s b .eflenHi
  | enchdrB0 (hskip : s.skipBytes = 0#32) (hst : s.state = .encryptionHeader) (hpos : s.hdrPos = 0#4) :
    AtRow s b .enchdrB0
  | enchdrMid1 (hskip : s.skipBytes = 0#32) (hst : s.state = .encryptionHeader) (hpos : s.hdrPos = 1#4) :
    AtRow s b .enchdrMid1
  | enchdrMid2to3 (hskip : s.skipBytes = 0#32) (hst : s.state = .encryptionHeader)
    (hpos : 2 ≤ s.hdrPos.toNat ∧ s.hdrPos.toNat ≤ 3) : AtRow s b .enchdrMid2to3
  | enchdrMid4to7 (hskip : s.skipBytes = 0#32) (hst : s.state = .encryptionHeader)
    (hpos : 4 ≤ s.hdrPos.toNat ∧ s.hdrPos.toNat ≤ 7) : AtRow s b .enchdrMid4to7
  | enchdrMid8to9 (hskip : s.skipBytes = 0#32) (hst : s.state = .encryptionHeader)
    (hpos : 8 ≤ s.hdrPos.toNat ∧ s.hdrPos.toNat ≤ 9) : AtRow s b .enchdrMid8to9
  | enchdrMid10 (hskip : s.skipBytes = 0#32) (hst : s.state = .encryptionHeader) (hpos : s.hdrPos = 10#4) :
    AtRow s b .enchdrMid10
  | enchdrB11 (hskip : s.skipBytes = 0#32) (hst : s.state = .encryptionHeader) (hpos : s.hdrPos = 11#4) :
    AtRow s b .enchdrB11
  | dataByte (hskip : s.skipBytes = 0#32) (hst : s.state = .data) : AtRow s b .dataByte
  | tailByte (hskip : s.skipBytes = 0#32) (hst : s.state = .tail) : AtRow s b .tailByte

/-- A control position that cannot arise, which has no row (R61 item 6). -/
def State.Stuck (s : State) : Prop :=
  s.skipBytes = 0#32 ∧
    ((s.state = .filenameLength ∨ s.state = .extraFieldLength) ∧ 1 < s.valuePos.toNat ∨
      s.state = .encryptionHeader ∧ 11 < s.hdrPos.toNat)

/-- The two bits of a signature or value position. -/
theorem bitVec2_cases (p : BitVec 2) : p = 0#2 ∨ p = 1#2 ∨ p = 2#2 ∨ p = 3#2 := by
  revert p
  decide

/-- Positions 2 to 10 of the encryption header are none of those R80 tests for equality first. -/
theorem hdrPos_ne_of_middle {p : BitVec 4} (h : 2 ≤ p.toNat) (h' : p.toNat ≤ 10) : p ≠ 0#4 ∧ p ≠ 1#4 ∧ p ≠ 11#4 := by
  refine ⟨?_, ?_, ?_⟩ <;> rintro rfl <;> simp at h h'

variable {s : State} {b : Byte} {op : StepOp}

/-- The order of tests of R80 names the row the decode word selects, wherever the position can arise (R57). -/
theorem decodeStep_of_not_stuck (b : Byte) (h : ¬s.Stuck) : decodeStep (s.decodeWord b) = .ok (dispatchR80 s b) := by
  by_cases hskip : s.skipBytes = 0#32
  · cases hst : s.state with
    | signature => exact decodeStep_signature b hskip hst
    | flags => exact decodeStep_flagsByte b hskip hst
    | compressedSize => exact decodeStep_compressedSize b hskip hst
    | filenameLength =>
      exact decodeStep_filenameLength b hskip hst (not_lt.mp fun hp => h ⟨hskip, .inl ⟨.inl hst, hp⟩⟩)
    | extraFieldLength =>
      exact decodeStep_extraFieldLength b hskip hst (not_lt.mp fun hp => h ⟨hskip, .inl ⟨.inr hst, hp⟩⟩)
    | encryptionHeader =>
      exact decodeStep_encryptionHeader b hskip hst (not_lt.mp fun hp => h ⟨hskip, .inr ⟨hst, hp⟩⟩)
    | data =>
      simp only [decodeWord_of_skip_zero b hskip, dispatchR80, State.idx, hskip, hst, ne_self_iff_false, if_false]
      exact decodeStep_pack_of_position b .dataByte (by decide)
    | tail =>
      simp only [decodeWord_of_skip_zero b hskip, dispatchR80, State.idx, hskip, hst, ne_self_iff_false, if_false]
      exact decodeStep_pack_of_position b .tailByte (by decide)
  · exact decodeStep_skip b hskip

theorem AtRow.not_stuck (h : AtRow s b op) : ¬s.Stuck := by
  rintro ⟨hz, ⟨hlen | hlen, hpos⟩ | ⟨hhdr, hpos⟩⟩ <;> cases h <;> simp_all <;> omega

/-- The tests of R80 name the row of the position. -/
theorem AtRow.dispatch (h : AtRow s b op) : dispatchR80 s b = op.instr b := by
  cases h
  case sigMismatch hskip hst hne =>
    rcases bitVec2_cases s.sigIdx with hidx | hidx | hidx | hidx <;>
      simp_all [dispatchR80, StepOp.instr, Ne.symm]
  case enchdrMid2to3 hskip hst hpos =>
    obtain ⟨h0, h1, h11⟩ := hdrPos_ne_of_middle hpos.1 (by omega)
    simp [dispatchR80, StepOp.instr, hskip, hst, h0, h1, h11, hpos.2]
  case enchdrMid4to7 hskip hst hpos =>
    obtain ⟨h0, h1, h11⟩ := hdrPos_ne_of_middle (p := s.hdrPos) (by omega) (by omega)
    simp [dispatchR80, StepOp.instr, hskip, hst, h0, h1, h11, hpos.2, show ¬s.hdrPos.toNat ≤ 3 by omega]
  case enchdrMid8to9 hskip hst hpos =>
    obtain ⟨h0, h1, h11⟩ := hdrPos_ne_of_middle (p := s.hdrPos) (by omega) (by omega)
    simp [dispatchR80, StepOp.instr, hskip, hst, h0, h1, h11, hpos.2, show ¬s.hdrPos.toNat ≤ 3 by omega,
      show ¬s.hdrPos.toNat ≤ 7 by omega]
  all_goals simp_all [dispatchR80, StepOp.instr]

/-- At a position that can arise some row is selected (R57). -/
theorem exists_atRow (b : Byte) (h : ¬s.Stuck) : ∃ op, AtRow s b op := by
  by_cases hskip : s.skipBytes = 0#32
  · cases hst : s.state with
    | signature =>
      by_cases hne : [0x50#8, 0x4B#8, 0x03#8, 0x04#8][s.sigIdx.toNat]? = some b
      · rcases bitVec2_cases s.sigIdx with hidx | hidx | hidx | hidx <;> rw [hidx] at hne <;> cases hne
        · exact ⟨_, .sigM0 hskip hst hidx rfl⟩
        · exact ⟨_, .sigM1 hskip hst hidx rfl⟩
        · exact ⟨_, .sigM2 hskip hst hidx rfl⟩
        · exact ⟨_, .sigM3 hskip hst hidx rfl⟩
      · exact ⟨_, .sigMismatch hskip hst hne⟩
    | flags =>
      cases h0 : b.getLsbD 0 with
      | false => exact ⟨_, .flagsNotEncrypted hskip hst h0⟩
      | true =>
        cases h6 : b.getLsbD 6 with
        | true => exact ⟨_, .flagsStrong hskip hst h0 h6⟩
        | false =>
          cases h3 : b.getLsbD 3 with
          | true => exact ⟨_, .flagsStreamed hskip hst h0 h6 h3⟩
          | false => exact ⟨_, .flagsOk hskip hst h0 h6 h3⟩
    | compressedSize =>
      rcases bitVec2_cases s.valuePos with hpos | hpos | hpos | hpos
      · exact ⟨_, .csizeB0 hskip hst hpos⟩
      · exact ⟨_, .csizeB1 hskip hst hpos⟩
      · exact ⟨_, .csizeB2 hskip hst hpos⟩
      · exact ⟨_, .csizeB3 hskip hst hpos⟩
    | filenameLength =>
      have hle : s.valuePos.toNat ≤ 1 := not_lt.mp fun hp => h ⟨hskip, .inl ⟨.inl hst, hp⟩⟩
      rcases bitVec2_cases s.valuePos with hpos | hpos | hpos | hpos
      · exact ⟨_, .fnlenLo hskip hst hpos⟩
      · exact ⟨_, .fnlenHi hskip hst hpos⟩
      all_goals simp [hpos] at hle
    | extraFieldLength =>
      have hle : s.valuePos.toNat ≤ 1 := not_lt.mp fun hp => h ⟨hskip, .inl ⟨.inr hst, hp⟩⟩
      rcases bitVec2_cases s.valuePos with hpos | hpos | hpos | hpos
      · exact ⟨_, .eflenLo hskip hst hpos⟩
      · exact ⟨_, .eflenHi hskip hst hpos⟩
      all_goals simp [hpos] at hle
    | encryptionHeader =>
      have hle : s.hdrPos.toNat ≤ 11 := not_lt.mp fun hp => h ⟨hskip, .inr ⟨hst, hp⟩⟩
      obtain hpos | hpos | hpos | hpos | hpos | hpos | hpos : s.hdrPos = 0#4 ∨ s.hdrPos = 1#4 ∨
          (2 ≤ s.hdrPos.toNat ∧ s.hdrPos.toNat ≤ 3) ∨ (4 ≤ s.hdrPos.toNat ∧ s.hdrPos.toNat ≤ 7) ∨
          (8 ≤ s.hdrPos.toNat ∧ s.hdrPos.toNat ≤ 9) ∨ s.hdrPos = 10#4 ∨ s.hdrPos = 11#4 := by
        bv_omega
      · exact ⟨_, .enchdrB0 hskip hst hpos⟩
      · exact ⟨_, .enchdrMid1 hskip hst hpos⟩
      · exact ⟨_, .enchdrMid2to3 hskip hst hpos⟩
      · exact ⟨_, .enchdrMid4to7 hskip hst hpos⟩
      · exact ⟨_, .enchdrMid8to9 hskip hst hpos⟩
      · exact ⟨_, .enchdrMid10 hskip hst hpos⟩
      · exact ⟨_, .enchdrB11 hskip hst hpos⟩
    | data => exact ⟨_, .dataByte hskip hst⟩
    | tail => exact ⟨_, .tailByte hskip hst⟩
  · exact ⟨_, .skip hskip⟩

/-- An accepted byte at a row's position performs the row (R80, R104). -/
theorem AtRow.exec_push (h : AtRow s b op) (hready : Ready s) : exec (.push b) s = .next (s.afterRow op b) := by
  rw [hready.exec_push b (decodeStep_of_not_stuck b h.not_stuck), h.dispatch, exec_instr,
    runRow_of_accepts op b (s.accepts_iff.mpr hready)]

end Sys2Proof.Machine
end

section
/-! SUPPORT. The invariants along a row of the tracker (spec rule R25). -/

namespace Sys2Proof.Machine

open Sys2Proof.Claims

/-- What the invariants say of the registers at each value of `state` (R17, R25). -/
def State.PositionInv (s : State) : Prop :=
  match s.state with
  | .signature => s.skipBytes = 0#32 ∧ s.hdrPos = 0#4
  | .flags => s.skipBytes.toNat ≤ 131070 ∧ s.sigIdx = 0#2 ∧ s.hdrPos = 0#4
  | .compressedSize =>
    s.skipBytes.toNat ≤ 131070 ∧ s.sigIdx = 0#2 ∧ s.hdrPos = 0#4 ∧
      s.compressedSize.toNat < 2 ^ (8 * s.valuePos.toNat)
  | .filenameLength =>
    s.skipBytes.toNat ≤ 131070 ∧ s.sigIdx = 0#2 ∧ s.hdrPos = 0#4 ∧
      s.valuePos.toNat ≤ 1 ∧ s.value.toNat < 2 ^ (8 * s.valuePos.toNat)
  | .extraFieldLength =>
    s.skipBytes = 0#32 ∧ s.sigIdx = 0#2 ∧ s.hdrPos = 0#4 ∧
      s.valuePos.toNat ≤ 1 ∧ s.value.toNat < 2 ^ (8 * s.valuePos.toNat)
  | .encryptionHeader =>
    s.skipBytes.toNat ≤ 131070 ∧ s.sigIdx = 0#2 ∧ s.hdrPos.toNat ≤ 11 ∧ (s.hdrPos ≠ 0#4 → s.skipBytes = 0#32)
  | .data => s.skipBytes = 0#32 ∧ s.sigIdx = 0#2 ∧ s.hdrPos = 0#4 ∧ 1 ≤ s.compressedSize.toNat
  | .tail => s.skipBytes = 0#32 ∧ s.sigIdx = 0#2 ∧ s.hdrPos = 0#4

/-- The invariants of the session registers (R15, R25). -/
def State.RegInv (s : State) : Prop := s.PositionInv ∧ s.valueIncrement = 0#8

/-- The invariants: those of the registers, and what a `READ` or an `OPEN` in progress asks for (R103, R110). -/
theorem State.inv_iff {s : State} : s.Inv ↔
    s.RegInv ∧ (s.reading = true → s.accepts = true) ∧ (s.opening ≠ none → s.sessionOpen = false) := by
  constructor
  · rintro ⟨hsig, hhdr, hle, hdata, hskip, hcsize, hlen, hmax, hinc, hread, hopen⟩
    refine ⟨⟨?_, hinc⟩, hread, hopen⟩
    unfold State.PositionInv
    cases hst : s.state <;> simp_all
  · rintro ⟨⟨hpos, hinc⟩, hread, hopen⟩
    unfold State.PositionInv at hpos
    cases hst : s.state <;> rw [hst] at hpos <;> constructor <;> simp_all

variable {s : State} {b : Byte} {op : StepOp}

/-- A position that meets the invariants can arise. -/
theorem State.RegInv.not_stuck (h : s.RegInv) : ¬s.Stuck := by
  obtain ⟨hpos, -⟩ := h
  rintro ⟨-, ⟨hst | hst, hp⟩ | ⟨hst, hp⟩⟩ <;> simp only [State.PositionInv, hst] at hpos <;> omega

/-- Where nothing is ever skipped (R25 item 4). -/
theorem State.Inv.skip_zero (h : s.Inv) (hst : s.state = .signature ∨ s.state = .data ∨ s.state = .tail) :
    s.skipBytes = 0#32 := by
  by_contra hne
  have hskip := h.skip_states hne
  rcases hst with hst | hst | hst <;> simp [hst] at hskip

theorem AtRow.keeps_regInv (h : AtRow s b op) (hinv : s.RegInv) : (s.afterRow op b).RegInv := by
  obtain ⟨hinv, hinc⟩ := hinv
  have hfnLen := s.fnLen.isLt
  have hbyte := b.isLt
  cases h <;> simp_all [State.PositionInv, State.RegInv, State.afterRow, rowRegs, fieldPart_toNat, zext32_toNat,
    State.lengthWith_eq_ofNat]
  case skip hskip =>
    have hdown : (4294967295 + s.skipBytes.toNat) % 4294967296 ≤ s.skipBytes.toNat := by bv_omega
    cases hst : s.state <;> rw [hst] at hinv <;> simp_all <;> omega
  case enchdrB11 hpos =>
    by_cases hle : s.compressedSize.toNat ≤ 12
    · simp [hle]
    · simp [hle]; omega
  case dataByte =>
    by_cases hlast : s.compressedSize - 1#32 = 0#32
    · simp [hlast]
    · simp [hlast]; bv_omega
  all_goals omega

end Sys2Proof.Machine
end

section
/-! SUPPORT. What a step can find at the ports (spec rules R100, R107, R112), each way by name, and what it then runs. -/

namespace Sys2Proof.Machine

open Sys2Proof.Claims

/-- A source event: `PUSH`, `SRC_EOS` or `SRC_ERR` (R104 to R106). -/
def IsEvent (i : Instr) : Prop := (∃ b, i = .push b) ∨ i = .srcEos ∨ ∃ e, i = .srcErr e

theorem decode_pin_cases {p : Pin} {i : Instr} (h : decode (.pin p) = .ok i) : i = .reset ∨ i = .obs := by
  cases p <;> cases h
  · exact .inl rfl
  · exact .inr rfl

theorem decode_src_cases {w : SrcWord} {i : Instr} (h : decode (.src w) = .ok i) : IsEvent i := by
  simp only [decode, decodeSrc] at h
  split_ifs at h <;> cases h
  · exact .inl ⟨_, rfl⟩
  · exact .inr (.inl rfl)
  · exact .inr (.inr ⟨_, rfl⟩)

theorem decode_cmd_cases {c : CmdWord} {i : Instr} (h : decode (.cmd c []) = .ok i) :
    i = .openSession [] ∨ i = .read ∨ i = .close := by
  simp only [decode, decodeCmd, takePassword] at h
  split_ifs at h <;> cases h
  · exact .inl rfl
  · exact .inr (.inl rfl)
  · exact .inr (.inr rfl)

/-- What a step finds at the ports of a state: an operation or none, and the state without what was taken (R100). -/
inductive Fetches (s : State) : Option Instr → State → Prop
  | pin {p ps i} (hpins : s.pins = p :: ps) (hi : i = .reset ∨ i = .obs) : Fetches s (some i) s.popPin
  | event {w ws i} (hreq : s.srcReq = true) (hsrc : s.src = w :: ws) (hi : IsEvent i) :
    Fetches s (some i) { s.popPin with src := ws }
  | reservedEvent {w ws} (hreq : s.srcReq = true) (hsrc : s.src = w :: ws) :
    Fetches s none ({ s.popPin with src := ws }.answer .refused)
  | lastPasswordByte {got p ps} (hreq : s.srcReq = false) (hopening : s.opening = some got)
    (hbeats : s.pwBeats = p :: ps) :
    Fetches s (some (.openSession (got ++ [p.data]))) { s.popPin with pwBeats := ps, opening := none }
  | passwordByte {got p ps} (hreq : s.srcReq = false) (hopening : s.opening = some got) (hbeats : s.pwBeats = p :: ps) :
    Fetches s none { s.popPin with pwBeats := ps, opening := some (got ++ [p.data]) }
  | command {c cs i} (hreading : s.reading = false) (hopening : s.opening = none) (hcmds : s.cmds = c :: cs)
    (hi : i = .openSession [] ∨ i = .read ∨ i = .close) : Fetches s (some i) { s.popPin with cmds := cs }
  | startOpen {c cs} (hreading : s.reading = false) (hopening : s.opening = none) (hcmds : s.cmds = c :: cs)
    (hclosed : s.sessionOpen = false) : Fetches s none { s.popPin with cmds := cs, opening := some [] }
  | noCommand {c cs} (hreading : s.reading = false) (hopening : s.opening = none) (hcmds : s.cmds = c :: cs) :
    Fetches s none { s.popPin with cmds := cs }
  | wait : Fetches s none s.popPin

theorem State.fetch_fetches (s : State) : Fetches s s.fetch.1 s.fetch.2 := by
  rcases s.fetch_cases with ⟨p, ps, i, hpins, hdec, hf⟩ | ⟨-, hf⟩ <;> rw [hf]
  · exact .pin hpins (decode_pin_cases hdec)
  rcases s.popPin.fetchChannel_cases with ⟨hreq, hc⟩ | ⟨hreq, got, hopening, hc⟩ | ⟨hreading, hopening, hc⟩ |
      ⟨-, -, -, hc⟩ <;> rw [hc]
  · rcases s.popPin.fetchEvent_cases with ⟨-, he⟩ | ⟨w, ws, hsrc, ⟨i, hdec, he⟩ | ⟨-, he⟩⟩ <;> rw [he]
    · exact .wait
    · exact .event hreq hsrc (decode_src_cases hdec)
    · exact .reservedEvent hreq hsrc
  · rcases s.popPin.fetchPassword_cases got with ⟨-, he⟩ | ⟨p, ps, hbeats, ⟨-, he⟩ | ⟨-, he⟩⟩ <;> rw [he]
    · exact .wait
    · exact .lastPasswordByte hreq hopening hbeats
    · exact .passwordByte hreq hopening hbeats
  · rcases s.popPin.fetchCommand_cases with
      ⟨-, he⟩ | ⟨c, cs, hcmds, ⟨i, hdec, he⟩ | ⟨-, ⟨-, he⟩ | ⟨hclosed, he⟩⟩ | ⟨-, he⟩⟩ <;> rw [he]
    · exact .wait
    · exact .command hreading hopening hcmds (decode_cmd_cases hdec)
    · exact .command hreading hopening hcmds (.inl rfl)
    · exact .startOpen hreading hopening hcmds hclosed
    · exact .noCommand hreading hopening hcmds
  · exact .wait

variable {s u : State} {o : Option Instr} {i : Instr}

/-- Taking something from the ports writes no register of the session (R100). -/
theorem Fetches.keeps_registers (h : Fetches s o u) :
    u.state = s.state ∧ u.sessionOpen = s.sessionOpen ∧ u.fault = s.fault ∧ u.pw = s.pw := by
  cases h <;> exact ⟨rfl, rfl, rfl, rfl⟩

/-- Only a pull takes a source event (R33, R110). -/
theorem Fetches.src_eq (h : Fetches s o u) (hreq : s.srcReq = false) : u.src = s.src := by
  cases h
  case event hreq' _ _ | reservedEvent hreq' _ => simp [hreq] at hreq'
  all_goals rfl

/-- What is found at the ports: reset or an observation; an event, in a session that accepts it; a command, with neither a
pull nor an `OPEN` in progress any more (R102, R109, R110, R112). -/
theorem Fetches.runs (h : Fetches s (some i) u) :
    i = .reset ∨ i = .obs ∨ (IsEvent i ∧ Ready u ∧ s.srcReq = true) ∨
    (u.srcReq = false ∧ u.opening = none ∧ ((∃ p, i = .openSession p) ∨ i = .read ∨ i = .close)) := by
  cases h with
  | pin hpins hi => exact hi.imp_right .inl
  | event hreq hsrc hi => exact .inr (.inr (.inl ⟨hi, (s.srcReq_iff.mp hreq).2, hreq⟩))
  | lastPasswordByte hreq hopening hbeats => exact .inr (.inr (.inr ⟨hreq, rfl, .inl ⟨_, rfl⟩⟩))
  | command hreading hopening hcmds hi =>
    exact .inr (.inr (.inr ⟨Bool.and_eq_false_iff.mpr (.inl hreading), hopening, hi.imp_left fun h => ⟨[], h⟩⟩))

/-- A step runs the operation it finds, or none. -/
theorem step_cases (s : State) :
    (∃ i u, Fetches s (some i) u ∧ step s = exec i u) ∨ ∃ u, Fetches s none u ∧ step s = .next u := by
  have h := s.fetch_fetches
  rcases hf : s.fetch with ⟨_ | i, u⟩ <;> rw [hf] at h
  · exact .inr ⟨u, h, step_of_fetch_none hf⟩
  · exact .inl ⟨i, u, h, step_of_fetch_some hf⟩

end Sys2Proof.Machine
end

section
/-! SUPPORT. `READ` as a command (spec rule R107). -/

namespace Sys2Proof.Claims

open Sys2Proof Sys2Proof.Machine

/-- Settles O33, by the first tests of R107. -/
theorem readStartsOrAnswersAtOnce : Obligations.ReadStartsOrAnswersAtOnce := by
  intro s
  refine ⟨fun hs => ?_, fun v hs hf => ?_, fun ⟨hs, hf⟩ => ?_⟩
  all_goals
    change execRead s = _
    simp [execRead, State.respond, *]

/-- A `READ` answers at once, or is in progress in a session that accepts events (R107). -/
theorem exec_read_cases {s t : State} (h : exec .read s = .next t) :
    (∃ d, t = s.respond d) ∨ (Ready s ∧ t = { s with reading := true }) := by
  obtain ⟨hrefused, hfail, hstart⟩ := readStartsOrAnswersAtOnce s
  by_cases hs : s.sessionOpen = false
  · exact .inl ⟨.refused, Host.Outcome.next.inj (h.symm.trans (hrefused hs))⟩
  · have hopen := Bool.eq_true_of_not_eq_false hs
    rcases Option.eq_none_or_eq_some s.fault with hf | ⟨v, hf⟩
    · exact .inr ⟨⟨hopen, hf⟩, Host.Outcome.next.inj (h.symm.trans (hstart ⟨hopen, hf⟩))⟩
    · exact .inl ⟨.fail v, Host.Outcome.next.inj (h.symm.trans (hfail v hopen hf))⟩

end Sys2Proof.Claims
end

section
/-! SUPPORT. The invariants along a step of the machine (spec rules R25, R99, R103, R107, R110). -/

namespace Sys2Proof.Machine

open Sys2Proof.Claims

variable {s t : State}

/-- With the invariants a pushed byte performs the row of its position (R80). -/
theorem State.RegInv.exists_push (h : s.RegInv) (hready : Ready s) (b : Byte) :
    ∃ op, AtRow s b op ∧ exec (.push b) s = .next (s.afterRow op b) :=
  let ⟨op, hrow⟩ := exists_atRow b h.not_stuck
  ⟨op, hrow, hrow.exec_push hready⟩

theorem State.Inv.exists_push (h : s.Inv) (hready : Ready s) (b : Byte) :
    ∃ op, AtRow s b op ∧ exec (.push b) s = .next (s.afterRow op b) :=
  (State.inv_iff.mp h).1.exists_push hready b

/-- Every operation but `PUSH` answers a next state, whatever the state. -/
theorem exec_answers {i : Instr} (h : ∀ b, i ≠ .push b) (s : State) : ∃ t, exec i s = .next t := by
  induction i using Instr.rowCases with
  | row op b => exact exec_instr op b s ▸ runRow_answers op b s
  | push b => exact absurd rfl (h b)
  | openSession p =>
    cases hs : s.sessionOpen with
    | true => exact ⟨_, exec_openSession_of_open p hs⟩
    | false => exact ⟨_, exec_openSession_of_closed p hs⟩
  | read =>
    change ∃ t, execRead s = .next t
    unfold execRead
    split
    · exact ⟨_, rfl⟩
    · split <;> exact ⟨_, rfl⟩
  | close =>
    cases hs : s.sessionOpen with
    | true => exact ⟨_, exec_close_of_open hs⟩
    | false => exact ⟨_, exec_close_of_closed hs⟩
  | srcEos | srcErr | crctab | crc32Step | updateKeys | deriveKsByte | initKeys | decryptByte | reset | obs =>
    exact ⟨_, rfl⟩

/-- What a step keeps: the invariants, and `Tail` until a closed machine opens a session or a reset closes it (R25, R99). -/
def Kept (s t : State) : Prop :=
  t.Inv ∧ (s.state = .tail → t.state = .tail ∨ (t.state = .signature ∧ (s.sessionOpen = false ∨ t.sessionOpen = false)))

/-- The registers of a cleared session meet the invariants (R27). -/
theorem regInv_of_clear (h : t.state = .signature ∧ t.skipBytes = 0#32 ∧ t.hdrPos = 0#4 ∧ t.valueIncrement = 0#8) :
    t.RegInv := by
  obtain ⟨hst, hskip, hpos, hinc⟩ := h
  refine ⟨?_, hinc⟩
  unfold State.PositionInv
  rw [hst]
  exact ⟨hskip, hpos⟩

/-- With the registers as they were, the invariants ask for a session that accepts events if a `READ` goes on, and for none
if an `OPEN` does. -/
theorem kept_of_same_registers (h : s.Inv) (hreg : t.RegInv = s.RegInv) (hst : t.state = s.state)
    (hread : t.reading = true → t.accepts = true) (hopen : t.opening ≠ none → t.sessionOpen = false) : Kept s t :=
  ⟨State.inv_iff.mpr ⟨hreg ▸ (State.inv_iff.mp h).1, hread, hopen⟩, fun htail => .inl (hst.trans htail)⟩

/-- A row whose byte is accepted. After a `Fail` the `READ` is over, so that no session without events has one (R126). -/
theorem AtRow.kept {b : Byte} {op : StepOp} (hrow : AtRow s b op) (h : s.Inv) (hready : Ready s) :
    Kept s (s.afterRow op b) := by
  obtain ⟨hreg, -, hopen⟩ := State.inv_iff.mp h
  refine ⟨State.inv_iff.mpr ⟨hrow.keeps_regInv hreg, fun hr => ?_, by simpa using hopen⟩, fun htail => .inl ?_⟩
  · have hdrop : rowDisposition op b s = .drop := by simp_all
    rcases rowDisposition_cases op b s with ⟨e, hd, -⟩ | ⟨-, hf⟩ | ⟨v, hd, -⟩
    · cases hd.symm.trans hdrop
    · exact (State.accepts_iff _).mpr ⟨by simpa using hready.1, hf.trans hready.2⟩
    · cases hd.symm.trans hdrop
  · cases hrow <;> simp_all [State.afterRow, rowRegs]

theorem exec_event_kept {i : Instr} (hi : IsEvent i) (h : s.Inv) (hready : Ready s) (hstep : exec i s = .next t) :
    Kept s t := by
  rcases hi with ⟨b, rfl⟩ | rfl | ⟨e, rfl⟩
  · obtain ⟨op, hrow, hpush⟩ := h.exists_push hready b
    cases hpush.symm.trans hstep
    exact hrow.kept h hready
  · cases (endAndErrorPassThrough s hready).1.symm.trans hstep
    exact kept_of_same_registers h rfl rfl nofun h.opening_closed
  · cases ((endAndErrorPassThrough s hready).2 e).symm.trans hstep
    exact kept_of_same_registers h rfl rfl nofun h.opening_closed

/-- Without a pull, no `READ` is in progress in a state that meets the invariants (R110). -/
theorem State.Inv.not_reading (h : s.Inv) (hreq : s.srcReq = false) : s.reading = false := by
  by_contra hr
  have hr : s.reading = true := by simpa using hr
  simp [State.srcReq, hr, h.reading_accepts hr] at hreq

section

variable (h : s.Inv) (hreq : s.srcReq = false) (hopening : s.opening = none)

include h hreq hopening

theorem exec_openSession_kept {p : List Byte} (hstep : exec (.openSession p) s = .next t) : Kept s t := by
  have hreading := h.not_reading hreq
  cases hs : s.sessionOpen with
  | true =>
    cases (exec_openSession_of_open p hs).symm.trans hstep
    exact kept_of_same_registers h rfl rfl (by simp [hreading]) (by simp [hopening])
  | false =>
    cases (exec_openSession_of_closed p hs).symm.trans hstep
    exact ⟨State.inv_iff.mpr ⟨regInv_of_clear ⟨rfl, rfl, rfl, rfl⟩, by simp [hreading], by simp [hopening]⟩,
      fun _ => .inr ⟨rfl, .inl hs⟩⟩

theorem exec_read_kept (hstep : exec .read s = .next t) : Kept s t := by
  have hreading := h.not_reading hreq
  rcases exec_read_cases hstep with ⟨d, rfl⟩ | ⟨hready, rfl⟩
  · exact kept_of_same_registers h rfl rfl (by simp [hreading]) (by simp [hopening])
  · exact kept_of_same_registers h rfl rfl (fun _ => s.accepts_iff.mpr hready) (by simp [hopening])

theorem exec_close_kept (hstep : exec .close s = .next t) : Kept s t := by
  have hreading := h.not_reading hreq
  cases hs : s.sessionOpen with
  | true =>
    cases (exec_close_of_open hs).symm.trans hstep
    exact kept_of_same_registers h rfl rfl (by simp [hreading]) (by simp [hopening])
  | false =>
    cases (exec_close_of_closed hs).symm.trans hstep
    exact kept_of_same_registers h rfl rfl (by simp [hreading]) (by simp [hopening])

end

theorem exec_reset_kept (hstep : exec .reset s = .next t) : Kept s t := by
  cases hstep
  exact ⟨State.inv_iff.mpr ⟨regInv_of_clear ⟨rfl, rfl, rfl, rfl⟩, nofun, nofun⟩, fun _ => .inr ⟨rfl, .inr rfl⟩⟩

theorem exec_obs_kept (h : s.Inv) (hstep : exec .obs s = .next t) : Kept s t := by
  cases hstep
  exact kept_of_same_registers h rfl rfl h.reading_accepts h.opening_closed

/-- Taking something from the ports keeps the invariants. -/
theorem Fetches.inv {o : Option Instr} {u : State} (hf : Fetches s o u) (h : s.Inv) : u.Inv := by
  obtain ⟨hreg, hread, hopen⟩ := State.inv_iff.mp h
  refine State.inv_iff.mpr ?_
  cases hf with
  | reservedEvent hreq hsrc => exact ⟨hreg, by simp, hopen⟩
  | lastPasswordByte hreq hopening hbeats => exact ⟨hreg, hread, by simp⟩
  | passwordByte hreq hopening hbeats => exact ⟨hreg, hread, fun _ => hopen (by simp [hopening])⟩
  | startOpen hreading hopening hcmds hclosed => exact ⟨hreg, hread, fun _ => hclosed⟩
  | pin | event | command | noCommand | wait => exact ⟨hreg, hread, hopen⟩

end Sys2Proof.Machine

namespace Sys2Proof.Claims

open Sys2Proof Sys2Proof.Machine

/-- Settles O44: taking from the ports keeps the invariants, and so does each operation that is then run. -/
theorem stepKeepsInvariant : Obligations.StepKeepsInvariant := by
  intro s t h hstep
  rcases step_cases s with ⟨i, u, hf, hs⟩ | ⟨u, hf, hs⟩
  · have hinv := hf.inv h
    have hrun := hs.symm.trans hstep
    obtain ⟨hst, hopen, -, -⟩ := hf.keeps_registers
    rw [← hst, ← hopen]
    rcases hf.runs with rfl | rfl | ⟨hi, hready, -⟩ | ⟨hreq, hopening, ⟨p, rfl⟩ | rfl | rfl⟩
    · exact exec_reset_kept hrun
    · exact exec_obs_kept hinv hrun
    · exact exec_event_kept hi hinv hready hrun
    · exact exec_openSession_kept hinv hreq hopening hrun
    · exact exec_read_kept hinv hreq hopening hrun
    · exact exec_close_kept hinv hreq hopening hrun
  · cases hs.symm.trans hstep
    exact ⟨hf.inv h, fun htail => .inl (hf.keeps_registers.1.trans htail)⟩

/-- Settles O45: only a `PUSH` could stop, and where the invariants hold its byte has a row. -/
theorem invariantStatesAreSafe : Obligations.InvariantStatesAreSafe := by
  intro s h
  unfold State.Safe
  rcases step_cases s with ⟨i, u, hf, hs⟩ | ⟨u, -, hs⟩ <;> rw [hs]
  · rcases hf.runs with rfl | rfl | ⟨⟨b, rfl⟩ | rfl | ⟨e, rfl⟩, hready, -⟩ | ⟨-, -, ⟨p, rfl⟩ | rfl | rfl⟩
    case inr.inr.inl.inl =>
      obtain ⟨op, -, hpush⟩ := (hf.inv h).exists_push hready b
      exact ⟨_, hpush⟩
    all_goals exact exec_answers (by simp) u
  · exact ⟨u, rfl⟩

end Sys2Proof.Claims
end

section
/-! SUPPORT. Runs of accepted bytes (spec rules R80, R104): how a run goes on after a row, what a run of emitted bytes leaves,
and each part of an entry from its start to its end (R81 to R99). -/

namespace Sys2Proof.Machine

open Sys2Proof.Claims

/-- What giving out a run of bytes changes (R34, R107). -/
def State.emitted (s : State) (bs : List Byte) : State :=
  { s with out := s.out ++ bs.map .emit, reading := s.reading && bs.isEmpty }

@[simp] theorem State.emitted_nil (s : State) : s.emitted [] = s := by
  simp [State.emitted]

@[simp] theorem State.ready_emitted (s : State) (bs : List Byte) : Ready (s.emitted bs) ↔ Ready s := Iff.rfl

@[simp] theorem State.ready_withKeys (s : State) (k : Keys) : Ready (s.withKeys k) ↔ Ready s := Iff.rfl

theorem State.emitted_emitted (s : State) (as bs : List Byte) : (s.emitted as).emitted bs = s.emitted (as ++ bs) := by
  cases as <;> simp [State.emitted]

theorem State.answer_emit (s : State) (b : Byte) : s.answer (.emit b) = s.emitted [b] := rfl

theorem feed_append (as bs : List Byte) (s : State) : feed (as ++ bs) s = (feed as s).bind (feed bs) := by
  induction as generalizing s with
  | nil => rfl
  | cons a as ih =>
    simp only [List.cons_append, feed]
    cases nextOf (exec (.push a) s) with
    | none => rfl
    | some t => exact ih t

/-- Two parts of a run, one after the other. -/
theorem feed_append_of_feed {as bs : List Byte} {s t : State} {r : Option State} (h : feed as s = some t)
    (h' : feed bs t = r) : feed (as ++ bs) s = r := by
  rw [feed_append, h]
  exact h'

variable {s : State} {b : Byte} {op : StepOp}

/-- A run goes on from what the first byte's row leaves. -/
theorem AtRow.feed_cons (h : AtRow s b op) (hready : Ready s) (bs : List Byte) :
    feed (b :: bs) s = feed bs (s.afterRow op b) := by
  simp [feed, h.exec_push hready]

/-- As many bytes as `skip_bytes` counts, which may be none, are relayed (R13, R81). -/
theorem feed_skipped (s : State) (bs : List Byte) (hready : Ready s) (hlen : bs.length = s.skipBytes.toNat) :
    feed bs s = some ({ s with skipBytes := 0#32 }.emitted bs) := by
  induction bs generalizing s with
  | nil =>
    have hzero : s.skipBytes = 0#32 := BitVec.eq_of_toNat_eq hlen.symm
    rw [State.emitted_nil, ← hzero]
    rfl
  | cons b bs ih =>
    rw [List.length_cons] at hlen
    have hrow : AtRow s b .skip := .skip (by bv_omega)
    have hrest : bs.length = (s.skipBytes - 1#32).toNat := by bv_omega
    rw [hrow.feed_cons hready, ih (s.afterRow .skip b) hready hrest]
    exact congrArg some (State.emitted_emitted { s with skipBytes := 0#32 } [b] bs)

/-- In `Tail` every byte is relayed, for good (R99). -/
theorem feed_tail (s : State) (bs : List Byte) (hready : Ready s) (hskip : s.skipBytes = 0#32) (hst : s.state = .tail) :
    feed bs s = some (s.emitted bs) := by
  induction bs generalizing s with
  | nil => rw [State.emitted_nil]; rfl
  | cons b bs ih =>
    rw [(AtRow.tailByte hskip hst).feed_cons hready, ih (s.afterRow .tailByte b) hready hskip hst]
    exact congrArg some (State.emitted_emitted s [b] bs)

-- The header of an entry, part by part. A part starts where the one before it, and what is skipped after that, ends.

/-- The session with so many bytes to skip (R13). -/
def State.skipping (s : State) (n : Nat) : State := { s with skipBytes := BitVec.ofNat 32 n }

/-- The session at the start of the signature (R82). -/
def State.atSignature (s : State) : State := { s with state := .signature, sigIdx := 0#2 }

/-- The session at the flags byte (R85). -/
def State.atFlags (s : State) : State := { s with state := .flags, sigIdx := 0#2 }

/-- The session at the start of the size field (R89). -/
def State.atSize (s : State) : State :=
  { s with state := .compressedSize, valuePos := 0#2, compressedSize := 0#32, valueIncrement := 0#8 }

/-- The session with its size field read (R90). -/
def State.withSize (s : State) (n : Nat) : State := { s with compressedSize := BitVec.ofNat 32 n, valueIncrement := 0#8 }

/-- The session at the start of the two length fields (R91). -/
def State.atLengths (s : State) : State := { s with state := .filenameLength, valuePos := 0#2, value := 0#32 }

/-- The session with its two length fields read (R94). -/
def State.withLengths (s : State) (n m : Nat) : State :=
  { s with fnLen := BitVec.ofNat 16 n, value := BitVec.ofNat 32 m, valuePos := 0#2 }

/-- The session at a position of the encryption header (R95). -/
def State.atHeader (s : State) (p : Nat) : State :=
  { s with state := .encryptionHeader, hdrPos := BitVec.ofNat 4 p }

section

variable (s : State) (n m : Nat)

@[simp] theorem State.ready_skipping : Ready (s.skipping n) ↔ Ready s := Iff.rfl
@[simp] theorem State.ready_atSignature : Ready s.atSignature ↔ Ready s := Iff.rfl
@[simp] theorem State.ready_atFlags : Ready s.atFlags ↔ Ready s := Iff.rfl
@[simp] theorem State.ready_atSize : Ready s.atSize ↔ Ready s := Iff.rfl
@[simp] theorem State.ready_withSize : Ready (s.withSize n) ↔ Ready s := Iff.rfl
@[simp] theorem State.ready_atLengths : Ready s.atLengths ↔ Ready s := Iff.rfl
@[simp] theorem State.ready_withLengths : Ready (s.withLengths n m) ↔ Ready s := Iff.rfl
@[simp] theorem State.ready_atHeader : Ready (s.atHeader n) ↔ Ready s := Iff.rfl

end

/-- As many bytes as are to be skipped (R81). -/
theorem feed_skipping (s : State) (hready : Ready s) {n : Nat} {bs : List Byte} (hlen : bs.length = n)
    (hn : n < 2 ^ 32) : feed bs (s.skipping n) = some ((s.emitted bs).skipping 0) :=
  feed_skipped (s.skipping n) bs hready (hlen.trans (Nat.mod_eq_of_lt hn).symm)

/-- The bytes of the signature (R5). -/
def signatureBytes : List Byte := [0x50#8, 0x4B#8, 0x03#8, 0x04#8]

/-- The four signature bytes and the skip they set (R82, R83). -/
theorem feed_signature (s : State) (hready : Ready s) :
    feed signatureBytes (s.atSignature.skipping 0) = some ((s.emitted signatureBytes).atFlags.skipping 2) := by
  refine (AtRow.feed_cons (.sigM0 rfl rfl rfl rfl) (by simpa using hready) _).trans ?_
  refine (AtRow.feed_cons (.sigM1 rfl rfl rfl rfl) (by exact hready) _).trans ?_
  refine (AtRow.feed_cons (.sigM2 rfl rfl rfl rfl) (by exact hready) _).trans ?_
  refine (AtRow.feed_cons (.sigM3 rfl rfl rfl rfl) (by exact hready) _).trans ?_
  simp [feed, State.afterRow, rowRegs, rowDisposition, State.answer, State.emitted, State.atSignature, State.atFlags,
    State.skipping, signatureBytes]

/-- A flags byte that raises no violation, and the skip it sets (R85). -/
theorem feed_flags (s : State) (hready : Ready s) (b : Byte) (h0 : b.getLsbD 0 = true) (h6 : b.getLsbD 6 = false)
    (h3 : b.getLsbD 3 = false) :
    feed [b] (s.atFlags.skipping 0) = some ((s.emitted [clearEncrypted b]).atFlags.atSize.skipping 11) :=
  AtRow.feed_cons (.flagsOk rfl rfl h0 h6 h3) (by exact hready) []

/-- A number of four bytes is the sum of its little-endian bytes, each at its position (R35, R53). -/
theorem sum_littleEndian4 (n : Nat) :
    fieldPart (BitVec.ofNat 8 n) 0#2 + fieldPart (BitVec.ofNat 8 (n / 256)) 1#2 +
      fieldPart (BitVec.ofNat 8 (n / 256 / 256)) 2#2 + fieldPart (BitVec.ofNat 8 (n / 256 / 256 / 256)) 3#2 =
    BitVec.ofNat 32 n := by
  apply BitVec.eq_of_toNat_eq
  simp [fieldPart_toNat]
  omega

/-- The four size bytes, and the skip the last one sets (R89, R90). -/
theorem feed_sizeField (s : State) (hready : Ready s) (n : Nat) :
    feed (littleEndian 4 n) (s.atSize.skipping 0) =
      some ((((s.emitted (littleEndian 4 n)).withSize n).atLengths).skipping 4) := by
  refine (AtRow.feed_cons (.csizeB0 rfl rfl rfl) (by exact hready) _).trans ?_
  refine (AtRow.feed_cons (.csizeB1 rfl rfl rfl) (by exact hready) _).trans ?_
  refine (AtRow.feed_cons (.csizeB2 rfl rfl rfl) (by exact hready) _).trans ?_
  refine (AtRow.feed_cons (.csizeB3 rfl rfl rfl) (by exact hready) _).trans ?_
  rw [State.withSize, ← sum_littleEndian4 n]
  simp [feed, State.afterRow, rowRegs, rowDisposition, State.answer, State.emitted, State.atSize, State.atLengths,
    State.skipping, littleEndian]

/-- A number of two bytes is its low byte and 256 times its high byte (R35, R53). -/
theorem sum_littleEndian2 (n : Nat) (h : n < 2 ^ 16) :
    zext32 (BitVec.ofNat 8 n) + (zext32 (BitVec.ofNat 8 (n / 256)) <<< 8) = BitVec.ofNat 32 n := by
  change zext32 (BitVec.ofNat 8 n) + fieldPart (BitVec.ofNat 8 (n / 256)) 1#2 = _
  apply BitVec.eq_of_toNat_eq
  simp [fieldPart_toNat, zext32_toNat]
  omega

/-- The two length fields, and the skip of their sum (R91 to R94). -/
theorem feed_lengthFields (s : State) (hready : Ready s) (n m : Nat) (hn : n < 2 ^ 16) (hm : m < 2 ^ 16) :
    feed (littleEndian 2 n ++ littleEndian 2 m) (s.atLengths.skipping 0) =
      some ((((s.emitted (littleEndian 2 n ++ littleEndian 2 m)).withLengths n m).atHeader 0).skipping (n + m)) := by
  refine (AtRow.feed_cons (.fnlenLo rfl rfl rfl) (by exact hready) _).trans ?_
  refine (AtRow.feed_cons (.fnlenHi rfl rfl rfl) (by exact hready) _).trans ?_
  refine (AtRow.feed_cons (.eflenLo rfl rfl rfl) (by exact hready) _).trans ?_
  refine (AtRow.feed_cons (.eflenHi rfl rfl rfl) (by exact hready) _).trans ?_
  have hfnLen : (BitVec.ofNat 32 n).setWidth 16 = BitVec.ofNat 16 n :=
    BitVec.setWidth_ofNat_of_le (by decide) n
  have hskip : (BitVec.ofNat 16 n).setWidth 32 + BitVec.ofNat 32 m = BitVec.ofNat 32 (n + m) := by
    apply BitVec.eq_of_toNat_eq
    simp
    omega
  simp [feed, State.afterRow, rowRegs, rowDisposition, State.answer, State.emitted, littleEndian, State.lengthWith,
    State.atLengths, State.withLengths, State.atHeader, State.skipping, sum_littleEndian2 n hn, sum_littleEndian2 m hm,
    hfnLen, hskip]

-- The encrypted part of an entry

/-- What dropping bytes changes: a `READ` goes on (R107). -/
def State.dropped (s : State) (n : Nat) : State := { s with out := s.out ++ List.replicate n .drop }

@[simp] theorem State.ready_dropped (s : State) (n : Nat) : Ready (s.dropped n) ↔ Ready s := Iff.rfl

theorem State.dropped_dropped (s : State) (m n : Nat) : (s.dropped m).dropped n = s.dropped (m + n) := by
  simp [State.dropped]

theorem State.withKeys_emitted (s : State) (bs : List Byte) (k : Keys) :
    (s.emitted bs).withKeys k = (s.withKeys k).emitted bs := rfl

theorem decryptAll_cons (k : Keys) (c : Byte) (cs : List Byte) :
    decryptAll k (c :: cs) =
      (k.plain c :: (decryptAll (k.afterDecrypt c) cs).1, (decryptAll (k.afterDecrypt c) cs).2) := rfl

/-- One more byte decrypted is one more update of the keys (R75). -/
theorem decryptAll_append_keys (k : Keys) (as bs : List Byte) :
    (decryptAll k (as ++ bs)).2 = (decryptAll (decryptAll k as).2 bs).2 := by
  induction as generalizing k with
  | nil => rfl
  | cons a as ih => exact ih _

/-- At the positions 1 to 10 of the encryption header the byte is decrypted and dropped (R96). -/
theorem exists_middleRow (s : State) (b : Byte) (hskip : s.skipBytes = 0#32) {p : Nat} (hp : 1 ≤ p ∧ p ≤ 10) :
    ∃ op, AtRow (s.atHeader p) b op ∧
      (s.atHeader p).afterRow op b = ((s.withKeys (s.keys.afterDecrypt b)).dropped 1).atHeader (p + 1) := by
  have hafter : ∀ op, rowRegs op b (s.atHeader p) = { (s.atHeader p).withKeys (s.keys.afterDecrypt b) with
      hdrPos := BitVec.ofNat 4 p + 1#4 } → rowDisposition op b (s.atHeader p) = .drop →
      (s.atHeader p).afterRow op b = ((s.withKeys (s.keys.afterDecrypt b)).dropped 1).atHeader (p + 1) := by
    intro op hregs hdrop
    rw [State.afterRow, hregs, hdrop, State.answer_drop, ← BitVec.ofNat_add]
    rfl
  have hnat : (s.atHeader p).hdrPos.toNat = p := Nat.mod_eq_of_lt (by omega)
  obtain rfl | hp | hp | hp | rfl : p = 1 ∨ (2 ≤ p ∧ p ≤ 3) ∨ (4 ≤ p ∧ p ≤ 7) ∨ (8 ≤ p ∧ p ≤ 9) ∨ p = 10 := by omega
  · exact ⟨_, .enchdrMid1 hskip rfl rfl, hafter _ rfl rfl⟩
  · exact ⟨_, .enchdrMid2to3 hskip rfl (by rwa [hnat]), hafter _ rfl rfl⟩
  · exact ⟨_, .enchdrMid4to7 hskip rfl (by rwa [hnat]), hafter _ rfl rfl⟩
  · exact ⟨_, .enchdrMid8to9 hskip rfl (by rwa [hnat]), hafter _ rfl rfl⟩
  · exact ⟨_, .enchdrMid10 hskip rfl rfl, hafter _ rfl rfl⟩

/-- Any run of bytes between the first and the last of the encryption header (R96). -/
theorem feed_headerMiddle (s : State) (hready : Ready s) (hskip : s.skipBytes = 0#32) (bs : List Byte) {p : Nat}
    (hp : 1 ≤ p) (hend : p + bs.length ≤ 11) :
    feed bs (s.atHeader p) =
      some (((s.withKeys (decryptAll s.keys bs).2).dropped bs.length).atHeader (p + bs.length)) := by
  induction bs generalizing s p with
  | nil => simp [feed, decryptAll, State.dropped, State.withKeys]
  | cons b bs ih =>
    rw [List.length_cons] at hend
    obtain ⟨op, hrow, hafter⟩ := exists_middleRow s b hskip (p := p) ⟨hp, by omega⟩
    rw [hrow.feed_cons (by simpa using hready), hafter,
      ih ((s.withKeys (s.keys.afterDecrypt b)).dropped 1) (by simpa using hready) hskip (by omega) (by omega)]
    change some (((((s.withKeys (decryptAll s.keys (b :: bs)).2).dropped 1).dropped bs.length)).atHeader _) = _
    rw [State.dropped_dropped, List.length_cons, Nat.add_comm 1, Nat.add_assoc, Nat.add_comm 1]

/-- The session with so many payload bytes left: in `Data`, or at `Signature` with none (R97, R98). -/
def State.payloadLeft (s : State) (n : Nat) : State :=
  { s with skipBytes := 0#32, compressedSize := BitVec.ofNat 32 n, state := if n = 0 then .signature else .data }

@[simp] theorem State.ready_payloadLeft (s : State) (n : Nat) : Ready (s.payloadLeft n) ↔ Ready s := Iff.rfl

/-- The twelve bytes of the encryption header (R95 to R97). -/
theorem feed_header (s : State) (hready : Ready s) (h : List Byte) (hlen : h.length = 12) :
    feed h ((s.atHeader 0).skipping 0) =
      some ((((s.withKeys (decryptAll (Keys.init s.pw) h).2).dropped 12).atHeader 0).payloadLeft
        (s.compressedSize.toNat - 12)) := by
  obtain ⟨first, h, rfl⟩ := List.exists_cons_of_length_eq_add_one hlen
  obtain ⟨middle, last, rfl⟩ := (List.eq_nil_or_concat h).resolve_left (by rintro rfl; simp at hlen)
  have hmiddle : middle.length = 10 := by simpa using hlen
  have hfirst : ((s.atHeader 0).skipping 0).afterRow .enchdrB0 first =
      (((s.withKeys ((Keys.init s.pw).afterDecrypt first)).dropped 1).skipping 0).atHeader 1 := State.answer_drop _
  have hrest := feed_headerMiddle (((s.withKeys ((Keys.init s.pw).afterDecrypt first)).dropped 1).skipping 0)
    (by simpa using hready) rfl middle (p := 1) le_rfl (by omega)
  rw [hmiddle] at hrest
  rw [AtRow.feed_cons (.enchdrB0 rfl rfl rfl) (by simpa using hready), hfirst, List.concat_eq_append]
  refine feed_append_of_feed hrest ((AtRow.feed_cons (.enchdrB11 rfl rfl rfl) (by simpa using hready) _).trans ?_)
  have hkeys : (decryptAll (Keys.init s.pw) (first :: (middle ++ [last]))).2 =
      (decryptAll ((Keys.init s.pw).afterDecrypt first) middle).2.afterDecrypt last := decryptAll_append_keys _ _ _
  rw [hkeys, feed, State.afterRow, rowDisposition, State.answer_drop]
  simp [rowRegs, State.dropped, State.atHeader, State.skipping, State.payloadLeft, Nat.sub_eq_zero_iff_le]

theorem afterRow_dataByte_payloadLeft (s : State) (c : Byte) {n : Nat} (hn : n + 1 < 2 ^ 32) :
    (s.payloadLeft (n + 1)).afterRow .dataByte c =
      ((s.withKeys (s.keys.afterDecrypt c)).emitted [s.keys.plain c]).payloadLeft n := by
  have hdown : BitVec.ofNat 32 (n + 1) - 1#32 = BitVec.ofNat 32 n := by
    rw [BitVec.ofNat_add, BitVec.add_sub_cancel]
  have hlast : BitVec.ofNat 32 n = 0#32 ↔ n = 0 := by
    rw [← BitVec.toNat_inj, BitVec.toNat_ofNat, Nat.mod_eq_of_lt (by omega)]
    rfl
  rw [State.afterRow, rowDisposition, State.answer_emit]
  simp only [rowRegs, State.payloadLeft, hdown, hlast]
  rfl

/-- A payload of as many bytes as are left, which may be none (R98). -/
theorem feed_payload (s : State) (hready : Ready s) (cs : List Byte) (hlen : cs.length < 2 ^ 32) :
    feed cs (s.payloadLeft cs.length) =
      some (((s.withKeys (decryptAll s.keys cs).2).emitted (decryptAll s.keys cs).1).payloadLeft 0) := by
  induction cs generalizing s with
  | nil => simp [feed, decryptAll, State.withKeys]
  | cons c cs ih =>
    rw [AtRow.feed_cons (.dataByte rfl rfl) (by exact hready), List.length_cons,
      afterRow_dataByte_payloadLeft s c hlen, ih _ (by exact hready) (Nat.lt_of_succ_lt hlen)]
    rw [State.withKeys_emitted, State.emitted_emitted, decryptAll_cons]
    rfl

end Sys2Proof.Machine
end

section
/-! SUPPORT. The statements about runs of bytes (spec rules R51 to R54, R62, R81 to R99). -/

namespace Sys2Proof.Claims

open Sys2Proof Sys2Proof.Machine

/-- A run of emitted bytes that is not empty ends a `READ` in progress (R107). -/
theorem emitted_of_ne_nil (s : State) {bs : List Byte} (h : bs ≠ []) :
    s.emitted bs = { s with out := s.out ++ bs.map .emit, reading := false } := by
  cases bs with
  | nil => exact absurd rfl h
  | cons b bs => simp [State.emitted]

theorem littleEndian_succ_ne_nil (k n : Nat) : littleEndian (k + 1) n ≠ [] := by simp [littleEndian]

/-- Settles O51, by induction over the run. -/
theorem skippedRunIsRelayed : Obligations.SkippedRunIsRelayed := by
  intro s bs hready hne hlen
  rw [feed_skipped s bs hready hlen, emitted_of_ne_nil _ hne]

/-- Settles O52: the positions 0 to 3 one after the other, and the sum of the four parts. -/
theorem sizeFieldIsLittleEndian : Obligations.SizeFieldIsLittleEndian := by
  intro s n hinv hready hst hskip hpos _
  have hinc := hinv.increment_zero
  have hsize : s.compressedSize = 0#32 := by
    have h := hinv.csize_partial hst
    rw [hpos] at h
    exact BitVec.eq_of_toNat_eq (Nat.lt_one_iff.mp h)
  have hstart : s = s.atSize.skipping 0 := by
    cases s
    simp_all [State.atSize, State.skipping]
  conv_lhs => rw [hstart, feed_sizeField s hready n, emitted_of_ne_nil _ (littleEndian_succ_ne_nil 3 n)]
  simp only [State.withSize, State.atLengths, State.skipping, ← hinc]

/-- Settles O53: the two bytes of either length, and the sum of the two. -/
theorem lengthFieldsSumToSkip : Obligations.LengthFieldsSumToSkip := by
  intro s n m hinv hready hst hskip hpos hn hm
  have hvalue : s.value = 0#32 := by
    have h := (hinv.length_partial (.inl hst)).2
    rw [hpos] at h
    exact BitVec.eq_of_toNat_eq (Nat.lt_one_iff.mp h)
  have hstart : s = s.atLengths.skipping 0 := by
    cases s
    simp_all [State.atLengths, State.skipping]
  conv_lhs => rw [hstart, feed_lengthFields s hready n m hn hm, emitted_of_ne_nil _ (by simp [littleEndian])]
  rfl

/-- Settles O54: the first byte makes the keys anew, ten go through the middle, the last takes 12 off the declared size. -/
theorem encryptionHeaderIsSwallowed : Obligations.EncryptionHeaderIsSwallowed := by
  intro s h hinv hready hst hskip hpos hlen
  have hstart : s = (s.atHeader 0).skipping 0 := by
    cases s
    simp_all [State.atHeader, State.skipping]
  conv_lhs => rw [hstart, feed_header s hready h hlen]
  simp only [State.dropped, State.withKeys, State.atHeader, State.payloadLeft, Nat.sub_eq_zero_iff_le, ← hskip, ← hpos]

/-- What an encryptor with the same keys made of a plaintext decrypts to it: either updates its keys with the plaintext byte
(R75). -/
theorem decryptAll_encryptAll (k : Keys) (ps : List Byte) : (decryptAll k (encryptAll k ps)).1 = ps := by
  induction ps generalizing k with
  | nil => rfl
  | cons p ps ih =>
    have hplain : p ^^^ k.keystreamByte ^^^ k.keystreamByte = p := by
      rw [BitVec.xor_assoc, BitVec.xor_self, BitVec.xor_zero]
    rw [encryptAll, decryptAll]
    simp only [hplain, ih]

theorem decryptAll_length (k : Keys) (cs : List Byte) : (decryptAll k cs).1.length = cs.length := by
  induction cs generalizing k with
  | nil => rfl
  | cons c cs ih => simp [decryptAll_cons, ih]

/-- Settles O55: by induction over the payload, and over the plaintext. -/
theorem payloadIsDecryptedInFull : Obligations.PayloadIsDecryptedInFull := by
  refine ⟨fun s cs hinv hready hst hlen => ?_, decryptAll_encryptAll⟩
  have hskip := hinv.skip_zero (.inr (.inl hst))
  have hleft := hinv.data_pos hst
  have hne : (decryptAll s.keys cs).1 ≠ [] := by
    rw [← List.length_pos_iff, decryptAll_length]
    omega
  have hstart : s = s.payloadLeft cs.length := by
    have hsome : cs.length ≠ 0 := by omega
    rw [State.payloadLeft, if_neg hsome, hlen, BitVec.ofNat_toNat, BitVec.setWidth_eq, ← hst, ← hskip]
  conv_lhs => rw [hstart, feed_payload s hready cs (hlen ▸ s.compressedSize.isLt), emitted_of_ne_nil _ hne]
  simp only [State.payloadLeft, State.withKeys, if_true, ← hskip]

-- A stream that does not start with the signature

/-- What a stream without the signature leaves, from any position of it: as far matched as it goes, or given up for good;
no other register changed (R82, R84, R99). -/
def RelayedWithoutMatch (s : State) (bs rest : List Byte) (t : State) : Prop :=
  t.out = s.out ++ bs.map .emit ∧
  t = { s with state := t.state, sigIdx := t.sigIdx, out := t.out, reading := t.reading } ∧
  (bs.IsPrefix rest → t.state = .signature ∧ t.sigIdx.toNat = s.sigIdx.toNat + bs.length) ∧
  (¬bs.IsPrefix rest → t.state = .tail ∧ t.sigIdx = 0#2)

/-- A signature byte that matches and is not the last counts `sig_idx` up (R82). -/
theorem exists_matchRow {s : State} {b : Byte} (hskip : s.skipBytes = 0#32) (hst : s.state = .signature)
    (hb : signatureBytes[s.sigIdx.toNat]? = some b) (hidx : s.sigIdx.toNat < 3) :
    ∃ op, AtRow s b op ∧ s.afterRow op b = { s with sigIdx := s.sigIdx + 1#2 }.emitted [b] := by
  rcases bitVec2_cases s.sigIdx with h | h | h | h <;> rw [h] at hb hidx
  · exact ⟨_, .sigM0 hskip hst h (Option.some_inj.mp hb).symm, rfl⟩
  · exact ⟨_, .sigM1 hskip hst h (Option.some_inj.mp hb).symm, rfl⟩
  · exact ⟨_, .sigM2 hskip hst h (Option.some_inj.mp hb).symm, rfl⟩
  · exact absurd hidx (by decide)

theorem feed_withoutMatch (s : State) (bs : List Byte) (hready : Ready s) (hskip : s.skipBytes = 0#32)
    (hst : s.state = .signature) (hne : ¬(signatureBytes.drop s.sigIdx.toNat).IsPrefix bs) :
    ∃ t, feed bs s = some t ∧ RelayedWithoutMatch s bs (signatureBytes.drop s.sigIdx.toNat) t := by
  induction bs generalizing s with
  | nil => exact ⟨s, rfl, by simp, rfl, fun _ => ⟨hst, rfl⟩, fun h => absurd List.nil_prefix h⟩
  | cons b bs ih =>
    have hlt : s.sigIdx.toNat < signatureBytes.length := s.sigIdx.isLt
    rw [List.drop_eq_getElem_cons hlt] at hne ⊢
    by_cases hb : signatureBytes[s.sigIdx.toNat]? = some b
    · obtain rfl : signatureBytes[s.sigIdx.toNat] = b := by simpa [List.getElem?_eq_getElem hlt] using hb
      rw [List.cons_prefix_cons] at hne
      have hidx : s.sigIdx.toNat < 3 := by
        by_contra hlast
        have hnil : signatureBytes.drop (s.sigIdx.toNat + 1) = [] :=
          List.drop_eq_nil_of_le (Nat.succ_le_succ (not_lt.mp hlast))
        exact hne ⟨rfl, hnil ▸ List.nil_prefix⟩
      obtain ⟨op, hrow, hafter⟩ := exists_matchRow hskip hst hb hidx
      have hnext : (s.sigIdx + 1#2).toNat = s.sigIdx.toNat + 1 := by bv_omega
      rw [← hnext] at hne ⊢
      obtain ⟨t, hfeed, hout, hframe, hmatched, hgivenUp⟩ :=
        ih (State.emitted { s with sigIdx := s.sigIdx + 1#2 } [_]) hready hskip hst fun h => hne ⟨rfl, h⟩
      refine ⟨t, ?_, ?_, hframe, fun h => ?_, fun h => ?_⟩
      · rw [hrow.feed_cons hready, hafter, hfeed]
      · rw [hout]
        simp [State.emitted]
      · obtain ⟨htst, htidx⟩ := hmatched (List.cons_prefix_cons.mp h).2
        have hcount : t.sigIdx.toNat = (s.sigIdx + 1#2).toNat + bs.length := htidx
        exact ⟨htst, by rw [hcount, hnext, List.length_cons]; omega⟩
      · exact hgivenUp fun h' => h (List.cons_prefix_cons.mpr ⟨rfl, h'⟩)
    · have hrow : AtRow s b .sigMismatch := .sigMismatch hskip hst hb
      refine ⟨(s.afterRow .sigMismatch b).emitted bs, ?_, ?_, rfl, fun h => ?_, fun _ => ⟨rfl, rfl⟩⟩
      · rw [hrow.feed_cons hready, feed_tail (s.afterRow .sigMismatch b) bs hready hskip rfl]
      · simp [State.emitted, rowDisposition]
      · obtain ⟨rfl, -⟩ := List.cons_prefix_cons.mp h
        exact absurd (List.getElem?_eq_getElem hlt) hb

/-- Settles O56: the signature as far as it matches, then `Tail`. -/
theorem nonZipStreamIsRelayedUnchanged : Obligations.NonZipStreamIsRelayedUnchanged := by
  intro s bs hready hskip hst hidx hne
  obtain ⟨t, hfeed, hout, hframe, hmatched, hgivenUp⟩ := feed_withoutMatch s bs hready hskip hst (hidx ▸ hne)
  rw [hidx] at hmatched hgivenUp
  exact ⟨t, hfeed, hout, hframe, fun h => (hmatched h).imp_right fun hlen => by simpa using hlen, hgivenUp⟩

-- A whole entry

section

variable (s : State) (bs : List Byte) (n m : Nat)

theorem emitted_atFlags : s.atFlags.emitted bs = (s.emitted bs).atFlags := rfl
theorem emitted_atSize : s.atSize.emitted bs = (s.emitted bs).atSize := rfl
theorem emitted_withSize : (s.withSize n).emitted bs = (s.emitted bs).withSize n := rfl
theorem emitted_atLengths : s.atLengths.emitted bs = (s.emitted bs).atLengths := rfl
theorem emitted_withLengths : (s.withLengths n m).emitted bs = (s.emitted bs).withLengths n m := rfl
theorem emitted_atHeader : (s.atHeader n).emitted bs = (s.emitted bs).atHeader n := rfl

end

/-- From the start of an entry to the start of its size field (R51, R82 to R85). -/
theorem feed_entryFront (s : State) (hready : Ready s) {version mid : List Byte} {flags : Byte}
    (hversion : version.length = 2) (hmid : mid.length = 11) (h0 : flags.getLsbD 0 = true)
    (h6 : flags.getLsbD 6 = false) (h3 : flags.getLsbD 3 = false) :
    feed (signatureBytes ++ version ++ [flags] ++ mid) (s.atSignature.skipping 0) = some
      ((s.emitted (signatureBytes ++ version ++ [clearEncrypted flags] ++ mid)).atFlags.atSize.skipping 0) := by
  simp only [List.append_assoc]
  refine feed_append_of_feed (feed_signature s hready) ?_
  refine feed_append_of_feed (feed_skipping _ (by simpa using hready) hversion (by decide)) ?_
  rw [emitted_atFlags, State.emitted_emitted]
  refine feed_append_of_feed (feed_flags _ (by simpa using hready) flags h0 h6 h3) ?_
  rw [feed_skipping _ (by simpa using hready) hmid (by decide), emitted_atSize, emitted_atFlags, State.emitted_emitted,
    State.emitted_emitted]
  simp only [List.append_assoc]

/-- From the start of the size field to the start of the encryption header (R51, R89 to R94). -/
theorem feed_entryLengths (s : State) (hready : Ready s) (size : Nat) {usize name extra : List Byte}
    (husize : usize.length = 4) (hname : name.length < 2 ^ 16) (hextra : extra.length < 2 ^ 16)
    {fields : List Byte}
    (hfields : fields = littleEndian 4 size ++ usize ++ littleEndian 2 name.length ++ littleEndian 2 extra.length ++
      name ++ extra) :
    feed fields (s.atSize.skipping 0) = some
      (((((s.emitted fields).withSize size).withLengths name.length extra.length).atHeader 0).skipping 0) := by
  subst hfields
  have hskip : (name ++ extra).length = name.length + extra.length := List.length_append
  rw [List.append_assoc _ name, List.append_assoc _ (littleEndian 2 name.length), List.append_assoc,
    List.append_assoc]
  refine feed_append_of_feed (feed_sizeField s hready size) ?_
  refine feed_append_of_feed (feed_skipping _ (by simpa using hready) husize (by decide)) ?_
  rw [emitted_atLengths, emitted_withSize, State.emitted_emitted]
  refine feed_append_of_feed (feed_lengthFields _ (by simpa using hready) _ _ hname hextra) ?_
  rw [feed_skipping _ (by simpa using hready) hskip (by omega)]
  simp only [emitted_atHeader, emitted_withLengths, emitted_withSize, State.emitted_emitted, List.append_assoc]

theorem outputBytes_emitted (s : State) (bs : List Byte) :
    outputBytes (s.emitted bs).out = outputBytes s.out ++ bs := by
  have hbytes : outputBytes (bs.map .emit) = bs := by
    simp [outputBytes, Disposition.outByte, Function.comp_def]
  rw [State.emitted, outputBytes_append, hbytes]

theorem outputBytes_dropped (s : State) (n : Nat) : outputBytes (s.dropped n).out = outputBytes s.out := by
  have hbytes : outputBytes (List.replicate n .drop) = [] := by
    simp [outputBytes, Disposition.outByte]
  rw [State.dropped, outputBytes_append, hbytes, List.append_nil]

/-- From the start of the encryption header to the start of the next entry: what the bytes leave (R51, R95 to R98). -/
theorem feed_entryEncrypted (s : State) (hready : Ready s) {header payload : List Byte} (hheader : header.length = 12)
    (hpayload : payload.length = s.compressedSize.toNat - 12) {k : Keys}
    (hk : k = (decryptAll (Keys.init s.pw) header).2) :
    ∃ t, feed (header ++ payload) ((s.atHeader 0).skipping 0) = some t ∧
      outputBytes t.out = outputBytes s.out ++ (decryptAll k payload).1 ∧
      t.state = .signature ∧ t.skipBytes = 0#32 ∧ t.compressedSize = 0#32 ∧ t.hdrPos = 0#4 ∧
      t.keys = (decryptAll k payload).2 ∧ t.sigIdx = s.sigIdx ∧ t.valueIncrement = s.valueIncrement ∧ t.pw = s.pw ∧
      t.opening = s.opening ∧ Ready t := by
  subst hk
  have hlen : payload.length < 2 ^ 32 := hpayload ▸ (Nat.sub_le ..).trans_lt s.compressedSize.isLt
  have hheaderFed := feed_header s hready header hheader
  rw [← hpayload] at hheaderFed
  refine ⟨_, feed_append_of_feed hheaderFed (feed_payload _ (by simpa using hready) payload hlen), ?_, rfl, rfl, rfl,
    rfl, rfl, rfl, rfl, rfl, rfl, by simpa using hready⟩
  exact (outputBytes_emitted (State.withKeys _ _) _).trans
    (congrArg (· ++ _) (outputBytes_dropped (s.withKeys _) 12))

/-- Settles O57: the three parts of an entry one after the other. -/
theorem entryIsRelayedDecrypted : Obligations.EntryIsRelayedDecrypted := by
  intro s version mid usize name extra header payload flags size hinv hready hst hidx hversion hmid husize hheader hname
    hextra hsize hpayload h0 h6 h3 front back keys
  have hskip := hinv.skip_zero (.inl hst)
  have hstart : s = s.atSignature.skipping 0 := by
    cases s
    simp_all [State.atSignature, State.skipping]
  have hdeclared : payload.length = (BitVec.ofNat 32 size).toNat - 12 := by
    rw [hpayload, BitVec.toNat_ofNat, Nat.mod_eq_of_lt hsize]
  have hbytes : front ++ [flags] ++ back ++ header ++ payload =
      signatureBytes ++ version ++ [flags] ++ mid ++ (littleEndian 4 size ++ usize ++ littleEndian 2 name.length ++
        littleEndian 2 extra.length ++ name ++ extra ++ (header ++ payload)) := by
    simp only [front, back, signatureBytes, List.append_assoc]
  have hfront := feed_entryFront s hready hversion hmid h0 h6 h3
  have hlengths := feed_entryLengths (s.emitted (signatureBytes ++ version ++ [clearEncrypted flags] ++ mid)).atFlags
    (by simpa using hready) size husize hname hextra rfl
  obtain ⟨t, hencrypted, hout, htst, htskip, htsize, hthdr, htkeys, htidx, htinc, htpw, htopening, htready⟩ :=
    feed_entryEncrypted (State.withLengths (State.withSize (State.emitted
      (s.emitted (signatureBytes ++ version ++ [clearEncrypted flags] ++ mid)).atFlags _) size) name.length extra.length)
      (by simpa using hready) hheader hdeclared (k := keys) rfl
  have hfeed := feed_append_of_feed hfront (feed_append_of_feed hlengths hencrypted)
  rw [← hbytes, ← hstart] at hfeed
  refine ⟨t, hfeed, ?_, htst, htidx, htskip, htsize, htkeys, htpw, htready, State.inv_iff.mpr ⟨?_, ?_, ?_⟩⟩
  · rw [hout]
    change outputBytes (State.emitted (s.emitted _) _).out ++ _ = _
    rw [State.emitted_emitted, outputBytes_emitted]
    simp only [front, back, signatureBytes, clearEncrypted, List.append_assoc]
  · exact regInv_of_clear ⟨htst, htskip, hthdr, htinc⟩
  · exact fun _ => (State.accepts_iff t).mpr htready
  · exact fun ho => absurd (hinv.opening_closed (htopening ▸ ho)) (by simp [hready.1])

end Sys2Proof.Claims
end

section
/-! SUPPORT. The rows of the decode word byte by byte (spec rules R56, R57): the high byte holds the control position, the low
byte is the input byte. -/

namespace Sys2Proof

/-- Bits 15:8 of a decode word: `skipnz`, `st` and `idx` (R56). -/
def dwHigh (dw : DecodeWord) : Byte := dw.extractLsb' 8 8

@[simp] theorem dwHigh_append (hi b : Byte) : dwHigh (hi ++ b : BitVec 16) = hi :=
  BitVec.extractLsb'_append_eq_left

theorem dwHigh_append_dwByte (dw : DecodeWord) : (dwHigh dw ++ dwByte dw : BitVec 16) = dw := by
  apply BitVec.eq_of_getLsbD_eq
  intro i hi
  rw [byteAppend_getLsbD]
  by_cases h : i < 8
  · simp [h, dwByte]
  · simp [h, dwHigh, show i - 8 < 8 by omega, show 8 + (i - 8) = i by omega]

/-- A row applies when its pattern agrees in either byte (R56). -/
theorem StepRow.applies_iff_bytes (r : StepRow) (dw : DecodeWord) : r.applies dw = true ↔
    dwHigh dw &&& dwHigh r.mask = dwHigh r.pattern ∧ dwByte dw &&& dwByte r.mask = dwByte r.pattern := by
  have h := StepRow.applies_append (dwHigh r.pattern) (dwByte r.pattern) (dwHigh r.mask) (dwByte r.mask) (dwHigh dw)
    (dwByte dw) r.op
  simp only [dwHigh_append_dwByte] at h
  simp [h]

/-- The encoded word of a row holds its control position as the pattern has it. -/
theorem encode_of_mem_stepRows : ∀ r ∈ stepRows, ∀ b, encode (r.op.instr b) = some (.step (dwHigh r.pattern ++ b)) := by
  intro r hr b
  fin_cases hr <;> rfl

/-- The operands a row admits are the bytes its pattern agrees with (R57). -/
theorem wellFormed_of_mem_stepRows : ∀ r ∈ stepRows, ∀ b,
    (r.op.instr b).wellFormed = (b &&& dwByte r.mask == dwByte r.pattern) := by
  intro r hr b
  have hall : b &&& 255#8 = b := BitVec.and_allOnes
  fin_cases hr <;> simp [StepOp.instr, Instr.wellFormed, dwByte, Config.magic, hall]

/-- Every row but the fallback is in the table. -/
theorem exists_mem_stepRows {op : StepOp} (h : op ≠ .sigMismatch) : ∃ r ∈ stepRows, r.op = op := by
  cases op
  case sigMismatch => exact absurd rfl h
  all_goals decide

/-- The word of a row of the table decodes to the row. -/
theorem decode_encode_of_mem_stepRows {r : StepRow} (hr : r ∈ stepRows) {b : Byte}
    (hb : (r.op.instr b).wellFormed = true) {w : PortWord} (hw : encode (r.op.instr b) = some w) :
    decode w = .ok (r.op.instr b) := by
  rw [encode_of_mem_stepRows r hr, Option.some_inj] at hw
  subst hw
  rw [wellFormed_of_mem_stepRows r hr, beq_iff_eq] at hb
  have hopen : ∀ r ∈ stepRows, dwHigh r.pattern &&& dwHigh r.mask = dwHigh r.pattern := by decide
  refine decodeStep_eq_ok.mpr ⟨r.op, selectStep_of_applies hr ((r.applies_iff_bytes _).mpr ?_), by rw [dwByte_append]⟩
  rw [dwHigh_append, dwByte_append]
  exact ⟨hopen r hr, hb⟩

/-- The fallback row's word is at position 0, or at 1 for the byte that would match at 0. -/
theorem decode_encode_sigMismatch (b : Byte) {w : PortWord} (hw : encode (.sigMismatch b) = some w) :
    decode w = .ok (.sigMismatch b) := by
  cases hw
  refine decodeStep_eq_ok.mpr ⟨.sigMismatch, selectStep_of_fallback ((fallbackRow.applies_iff_bytes _).mpr ?_) ?_, ?_⟩
  · rw [dwHigh_append, dwByte_append]
    refine ⟨?_, BitVec.and_zero⟩
    split <;> rfl
  · by_cases hb : b = 0x50#8
    · subst hb
      decide
    · rw [if_neg hb]
      simp only [List.mem_cons, List.not_mem_nil, or_false, not_or]
      refine ⟨fun h => hb ?_, fun h => ?_, fun h => ?_, fun h => ?_⟩
      · exact (dwByte_append 0x00#8 b).symm.trans (congrArg dwByte h)
      all_goals exact absurd ((dwHigh_append 0x00#8 b).symm.trans (congrArg dwHigh h)) (by decide)
  · rw [dwByte_append]
    rfl

/-- What the decoder answers for a decode word is a row, and the byte is one the row admits (R57). -/
theorem wellFormed_of_decodeStep {dw : DecodeWord} {i : Instr} (h : decodeStep dw = .ok i) : i.wellFormed = true := by
  obtain ⟨op, hsel, rfl⟩ := decodeStep_eq_ok.mp h
  rcases selectStep_cases hsel with ⟨r, hr, happ, rfl⟩ | ⟨-, rfl⟩
  · rw [wellFormed_of_mem_stepRows r hr, beq_iff_eq]
    exact ((r.applies_iff_bytes dw).mp happ).2
  · rfl

end Sys2Proof

namespace Sys2Proof.Claims

open Sys2Proof Sys2Proof.Machine

/-- Settles O28: the rows of the table together, the fallback row, the ports; the `FUNC` rows alone have no word. -/
theorem decodeOfEncodeIsTheOperation : Obligations.DecodeOfEncodeIsTheOperation := by
  intro i hwf
  refine ⟨fun w hw => ?_, by cases i <;> simp [encode]⟩
  induction i using Instr.rowCases with
  | row op b =>
    by_cases hop : op = .sigMismatch
    · subst hop
      exact decode_encode_sigMismatch b hw
    · obtain ⟨r, hr, rfl⟩ := exists_mem_stepRows hop
      exact decode_encode_of_mem_stepRows hr hwf hw
  | openSession p =>
    cases hw
    cases p with
    | nil => rfl
    | cons b bs => simp [decode, decodeCmd, takePassword_passwordBeats]
  | crctab | crc32Step | updateKeys | deriveKsByte | initKeys | decryptByte => cases hw
  | push | srcEos | srcErr | read | close | reset | obs => cases hw; rfl

/-- Settles O27: a row's operand agrees with its pattern; every other port admits every operand. -/
theorem decodedOperationsAreWellFormed : Obligations.DecodedOperationsAreWellFormed := by
  intro w i h
  cases w with
  | step dw => exact wellFormed_of_decodeStep h
  | cmd c pw =>
    simp only [decode, decodeCmd] at h
    split_ifs at h
    · cases h; rfl
    · split at h <;> cases h
      rfl
    all_goals cases h; rfl
  | src w => 
    rcases decode_src_cases h with ⟨b, rfl⟩ | rfl | ⟨e, rfl⟩ <;> rfl
  | pin p => rcases decode_pin_cases h with rfl | rfl <;> rfl

/-- Settles O29: each word is decoded by evaluation. -/
theorem sampleWordsDecode : Obligations.SampleWordsDecode := by
  unfold Obligations.SampleWordsDecode
  decide

end Sys2Proof.Claims
end

section
/-! SUPPORT. Control positions without a row (spec rules R57, R61 item 6; log 10). -/

namespace Sys2Proof

/-- The rows of the table and the fallback row. -/
def allRows : List StepRow := fallbackRow :: stepRows

/-- A decode word is without a row exactly if none applies. -/
theorem selectStep_eq_error_iff (dw : DecodeWord) :
    (∃ e, selectStep dw = .error e) ↔ ∀ r ∈ allRows, r.applies dw = false := by
  unfold selectStep allRows
  cases hfind : stepRows.find? (fun r => r.applies dw) with
  | some r =>
    have happ : r.applies dw = true := List.find?_some (p := (StepRow.applies · dw)) hfind
    have hmem := List.mem_of_find?_eq_some hfind
    constructor
    · rintro ⟨e, h⟩; cases h
    · intro h
      simp [h r (List.mem_cons_of_mem _ hmem)] at happ
  | none =>
    rw [List.forall_mem_cons]
    have hnone : ∀ r ∈ stepRows, r.applies dw = false := by simpa using List.find?_eq_none.mp hfind
    cases fallbackRow.applies dw with
    | true => simp
    | false => simpa using hnone

theorem decodeStep_eq_error_iff (dw : DecodeWord) :
    (∃ e, decodeStep dw = .error e) ↔ ∃ e, selectStep dw = .error e := by
  unfold decodeStep
  cases selectStep dw <;> simp

/-- The control position of a decode word is one that cannot arise (R61 item 6). -/
def StuckPosition (skipnz : Bool) (st : BitVec 3) (idx : BitVec 4) : Prop :=
  skipnz = false ∧
    ((st = 0#3 ∧ 3 < idx.toNat) ∨ (st = 2#3 ∧ 3 < idx.toNat) ∨ ((st = 3#3 ∨ st = 4#3) ∧ 1 < idx.toNat) ∨
      (st = 5#3 ∧ 11 < idx.toNat))

/-- The high byte of a decode word (R56). -/
def positionByte (skipnz : Bool) (st : BitVec 3) (idx : BitVec 4) : Byte := BitVec.ofBool skipnz ++ st ++ idx

theorem dwHigh_pack (n : Bool) (st : BitVec 3) (idx : BitVec 4) (b : Byte) :
    dwHigh (packDecodeWord n st idx b) = positionByte n st idx := dwHigh_append _ b

/-- At a position that cannot arise no row has its pattern. -/
theorem no_row_of_stuckPosition : ∀ n st idx, StuckPosition n st idx →
    ∀ r ∈ allRows, positionByte n st idx &&& dwHigh r.mask ≠ dwHigh r.pattern := by
  unfold StuckPosition
  decide +kernel

/-- At any other position some row has its pattern that leaves the byte open, or the state is `Flags`. -/
theorem exists_row_of_not_stuckPosition : ∀ n st idx, ¬StuckPosition n st idx →
    positionByte n st idx &&& 0xF0#8 = 0x10#8 ∨
    ∃ r ∈ allRows, dwByte r.mask = 0#8 ∧ dwByte r.pattern = 0#8 ∧
      positionByte n st idx &&& dwHigh r.mask = dwHigh r.pattern := by
  unfold StuckPosition
  decide +kernel

/-- At `Flags` every byte has a row. -/
theorem exists_flagsRow : ∀ b : Byte, ∃ r ∈ allRows,
    dwHigh r.mask = 0xF0#8 ∧ dwHigh r.pattern = 0x10#8 ∧ b &&& dwByte r.mask = dwByte r.pattern := by
  decide +kernel

/-- A decode word is refused exactly at a position that cannot arise, whatever the byte (R61 item 6). -/
theorem decodeStep_pack_eq_error_iff (n : Bool) (st : BitVec 3) (idx : BitVec 4) (b : Byte) :
    (∃ e, decodeStep (packDecodeWord n st idx b) = .error e) ↔ StuckPosition n st idx := by
  rw [decodeStep_eq_error_iff, selectStep_eq_error_iff]
  simp only [Bool.eq_false_iff, ne_eq, StepRow.applies_iff_bytes, dwHigh_pack, dwByte_pack]
  constructor
  · intro hnone
    by_contra hpos
    rcases exists_row_of_not_stuckPosition n st idx hpos with hflags | ⟨r, hr, hmask, hpattern, hhigh⟩
    · obtain ⟨r, hr, hmask, hpattern, hbyte⟩ := exists_flagsRow b
      exact hnone r hr ⟨by rw [hmask, hpattern, hflags], hbyte⟩
    · exact hnone r hr ⟨hhigh, by rw [hmask, hpattern, BitVec.and_zero]⟩
  · exact fun hpos r hr happ => no_row_of_stuckPosition n st idx hpos r hr happ.1

/-- Two rows of the table do not agree in the bits both of them fix. -/
theorem stepRows_pairwise : stepRows.Pairwise fun r r' => r.pattern &&& r'.mask ≠ r'.pattern &&& r.mask := by
  decide

end Sys2Proof

namespace Sys2Proof.Claims

open Sys2Proof Sys2Proof.Machine

/-- Settles O26: rows that applied to one word would agree, and a word is refused by its position alone. -/
theorem stepRowsPartitionTheDecodeWords : Obligations.StepRowsPartitionTheDecodeWords := by
  refine ⟨stepRows_pairwise.imp fun hne dw h => hne (StepRow.agree_of_applies h.1 h.2), fun dw => ?_⟩
  have h := decodeStep_pack_eq_error_iff (dwSkipnz dw) (dwState dw) (dwIdx dw) (dwByte dw)
  rwa [pack_fields] at h

/-- The position of a state's decode word cannot arise exactly if the state is stuck. -/
theorem stuckPosition_decodeWord_iff (s : State) :
    StuckPosition (s.skipBytes != 0#32) s.state.code s.idx ↔ s.Stuck := by
  have hval := s.valuePos.isLt
  have hsig := s.sigIdx.isLt
  unfold StuckPosition State.Stuck State.idx
  cases s.state <;> simp [ParserState.code] <;> omega

/-- Settles O25: at any other position some row is selected, and a row answers a next state. -/
theorem pushStopsOnlyWhereNoRowApplies : Obligations.PushStopsOnlyWhereNoRowApplies := by
  intro s b hready
  change _ ↔ s.Stuck
  constructor
  · intro hfault
    by_contra hpos
    obtain ⟨op, hrow⟩ := exists_atRow b hpos
    cases (hrow.exec_push hready).symm.trans hfault
  · intro hstuck
    have hrefused := (decodeStep_pack_eq_error_iff _ _ _ b).mpr ((stuckPosition_decodeWord_iff s).mpr hstuck)
    obtain ⟨e, hsel⟩ := (decodeStep_eq_error_iff _).mp hrefused
    change execPush b s = _
    rcases execPush_cases s b with ⟨hno, -⟩ | ⟨-, op, t, hop, -⟩ | ⟨-, -, hfault⟩
    · simp [(s.accepts_iff).mpr hready] at hno
    · cases hop.symm.trans hsel
    · exact hfault

end Sys2Proof.Claims
end

section
/-! SUPPORT. What each channel presents to a step (spec rules R100 to R103, R107, R112). -/

namespace Sys2Proof.Machine

open Sys2Proof.Claims

variable {s : State}

/-- A pin that stands for an operation comes first (R102, R109). -/
theorem step_of_pin {p : Pin} {ps : List Pin} {i : Instr} (hpins : s.pins = p :: ps) (hdec : decode (.pin p) = .ok i) :
    step s = exec i { s with pins := ps } := by
  refine step_of_fetch_some ?_
  simp only [State.fetch, hpins, hdec]

section

variable (hidle : s.pins.head?.getD .idle = .idle)

include hidle

/-- With nothing at the pins a step runs what the channels present. -/
theorem step_of_fetchChannel_some {i : Instr} {t : State} (h : s.popPin.fetchChannel = (some i, t)) :
    step s = exec i t :=
  step_of_fetch_some ((State.fetch_of_idle hidle).trans h)

theorem step_of_fetchChannel_none {t : State} (h : s.popPin.fetchChannel = (none, t)) : step s = .next t :=
  step_of_fetch_none ((State.fetch_of_idle hidle).trans h)

end

/-- A `READ` in progress pulls the next event (R107). -/
theorem fetchChannel_of_reading (hreading : s.reading = true) (hready : Ready s) : s.fetchChannel = s.fetchEvent :=
  if_pos (s.srcReq_iff.mpr ⟨hreading, hready⟩)

/-- An `OPEN` in progress takes the next password byte (R103). -/
theorem fetchChannel_of_opening {got : List Byte} (hreading : s.reading = false) (hopening : s.opening = some got) :
    s.fetchChannel = s.fetchPassword got := by
  simp [State.fetchChannel, State.srcReq, hreading, hopening]

/-- With neither in progress the next command is taken (R112). -/
theorem fetchChannel_of_idle (hreading : s.reading = false) (hopening : s.opening = none) :
    s.fetchChannel = s.fetchCommand := by
  simp [State.fetchChannel, State.srcReq, hreading, hopening]

end Sys2Proof.Machine

namespace Sys2Proof.Claims

open Sys2Proof Sys2Proof.Machine

/-- An event that a `READ` in progress pulls. -/
theorem step_of_event {s : State} {w : SrcWord} {ws : List SrcWord} {i : Instr}
    (hidle : s.pins.head?.getD .idle = .idle) (hreading : s.reading = true) (hready : Ready s) (hsrc : s.src = w :: ws)
    (hdec : decode (.src w) = .ok i) : step s = exec i { s with pins := s.pins.tail, src := ws } := by
  refine step_of_fetchChannel_some hidle ((fetchChannel_of_reading (s := s.popPin) hreading hready).trans ?_)
  rw [State.fetchEvent, show s.popPin.src = w :: ws from hsrc]
  simp only [hdec]
  rfl

/-- An event code that stands for none is used up and answered `Refused` (R59; log 11). -/
theorem step_of_reservedEvent {s : State} {w : SrcWord} {ws : List SrcWord} {e : DecodeError}
    (hidle : s.pins.head?.getD .idle = .idle) (hreading : s.reading = true) (hready : Ready s) (hsrc : s.src = w :: ws)
    (hdec : decode (.src w) = .error e) :
    step s = .next (Answered { s with pins := s.pins.tail, src := ws } .refused) := by
  refine step_of_fetchChannel_none hidle ((fetchChannel_of_reading (s := s.popPin) hreading hready).trans ?_)
  rw [State.fetchEvent, show s.popPin.src = w :: ws from hsrc]
  simp only [hdec]
  rw [answer_eq_answered_of_ne_drop _ (by simp)]
  rfl

/-- A command that is taken. -/
theorem step_of_command {s : State} {c : CmdWord} {cs : List CmdWord} {i : Instr}
    (hidle : s.pins.head?.getD .idle = .idle) (hreading : s.reading = false) (hopening : s.opening = none)
    (hcmds : s.cmds = c :: cs) (hdec : decode (.cmd c []) = .ok i) :
    step s = exec i { s with pins := s.pins.tail, cmds := cs } := by
  refine step_of_fetchChannel_some hidle ((fetchChannel_of_idle (s := s.popPin) hreading hopening).trans ?_)
  rw [State.fetchCommand, show s.popPin.cmds = c :: cs from hcmds]
  simp only [hdec]
  rfl

/-- A command that is taken, in general: what it presents is what `fetchCommand` makes of it. -/
theorem fetchChannel_of_command {s : State} {c : CmdWord} {cs : List CmdWord} (hreading : s.reading = false)
    (hopening : s.opening = none) (hcmds : s.cmds = c :: cs) {r : Option Instr × State}
    (h : State.fetchCommand { s.popPin with cmds := c :: cs } = r) : s.popPin.fetchChannel = r := by
  have hpop : s.popPin = { s.popPin with cmds := c :: cs } := by rw [← hcmds]; rfl
  rw [fetchChannel_of_idle (s := s.popPin) hreading hopening, hpop, h]

/-- Settles O40, one way to fill the ports after the other. -/
theorem stepRunsTheDecodedOperation : Obligations.StepRunsTheDecodedOperation := by
  refine ⟨fun s p ps i => step_of_pin, fun s w ws i => step_of_event, fun s c cs i => step_of_command, ?_, ?_,
    fun s b i hready hdec => hready.exec_push b hdec⟩
  · intro s c cs hidle hreading hopening hcmds
    have hfetch := fun r => fetchChannel_of_command (r := r) hreading hopening hcmds
    refine ⟨fun hcode hempty hclosed => ?_, fun hcode hempty hopen => ?_, fun hcode => ?_⟩
    · refine step_of_fetchChannel_none hidle (hfetch _ ?_)
      simp [State.fetchCommand, State.popPin, decode, decodeCmd, takePassword, hcode, hempty, hclosed]
    · refine (step_of_fetchChannel_some hidle (hfetch (some (.openSession []), { s.popPin with cmds := cs }) ?_)).trans
        (exec_openSession_of_open [] hopen)
      simp [State.fetchCommand, State.popPin, decode, decodeCmd, takePassword, hcode, hempty, hopen]
    · refine step_of_fetchChannel_none hidle (hfetch _ ?_)
      simp [State.fetchCommand, State.popPin, decode, decodeCmd, hcode]
  · intro s got p ps hidle hreading hopening hbeats
    have hchannel : s.popPin.fetchChannel = s.popPin.fetchPassword got := fetchChannel_of_opening hreading hopening
    rcases s.popPin.fetchPassword_cases got with ⟨hnone, -⟩ | ⟨p', ps', hbeats', hp⟩
    · cases hbeats.symm.trans hnone
    cases hbeats.symm.trans hbeats'
    rcases hp with ⟨hlast, hp⟩ | ⟨hlast, hp⟩
    · exact ⟨fun h => by simp [hlast] at h, fun _ => ⟨by rw [decode_openWord, if_pos hlast],
        step_of_fetchChannel_some hidle (hchannel.trans hp)⟩⟩
    · exact ⟨fun _ => step_of_fetchChannel_none hidle (hchannel.trans hp), fun h => by simp [hlast] at h⟩

/-- Settles O39: an event that is not accepted changes nothing; a reserved one decodes to none. -/
theorem eventsWithoutMeaningChangeNothing : Obligations.EventsWithoutMeaningChangeNothing := by
  refine ⟨fun s i hnot hi => ?_, fun s w ws hready hreading hpins hsrc hkind => ?_⟩
  · have hacc : s.accepts = false := Bool.eq_false_iff.mpr fun h => hnot (s.accepts_iff.mp h)
    rcases hi with ⟨b, rfl⟩ | rfl | ⟨e, rfl⟩
    · change execPush b s = _
      rw [execPush, hacc]
      rfl
    · exact s.onEvent_of_not_accepts (·.answer .endOfStream) hacc
    · exact s.onEvent_of_not_accepts (·.answer (.ioError e)) hacc
  · have hdec : decode (.src w) = .error .reservedEvent := by simp [decode, decodeSrc, hkind]
    rw [step_of_reservedEvent (by rw [hpins]; rfl) hreading hready hsrc hdec, hpins, List.tail_nil, ← hpins]

/-- Settles O42: nothing is taken where nothing stands. -/
theorem waitingChangesNothing : Obligations.WaitingChangesNothing := by
  intro s hpins hread hopen hidle
  have hpop : s.popPin = s := by rw [State.popPin, hpins, List.tail_nil, ← hpins]
  refine step_of_fetchChannel_none (by rw [hpins]; rfl) ?_
  rw [hpop]
  rcases s.fetchChannel_cases with ⟨hreq, hc⟩ | ⟨-, got, hopening, hc⟩ | ⟨hreading, hopening, hc⟩ | ⟨-, -, -, hc⟩ <;>
    rw [hc]
  · rw [State.fetchEvent, hread (s.srcReq_iff.mp hreq).1]
  · rw [State.fetchPassword, hopen (by simp [hopening])]
  · rw [State.fetchCommand, hidle hreading hopening]

/-- Settles O36, by what `RESET` writes, and by the pin that comes first. -/
theorem resetAbandonsEverything : Obligations.ResetAbandonsEverything :=
  fun _ => ⟨rfl, fun _ hpins => step_of_pin hpins rfl⟩

/-- Settles O37, by evaluation. -/
theorem resetValues : Obligations.ResetValues := ⟨rfl, rfl, rfl, rfl, rfl, rfl, rfl, rfl, rfl, rfl, rfl, rfl, rfl⟩

/-- Settles O43: a cleared session with nothing in progress. -/
theorem invariantHoldsAtReset : Obligations.InvariantHoldsAtReset :=
  State.inv_iff.mpr ⟨regInv_of_clear ⟨rfl, rfl, rfl, rfl⟩, nofun, nofun⟩

/-- The code of the latch tells the violation, and 0 that there is none (R19, R120). -/
theorem faultCode_eq_iff (f : Option Violation) :
    (faultCode f = 0#3 ↔ f = none) ∧ ∀ v : Violation, faultCode f = v.code ↔ f = some v := by
  refine ⟨?_, fun v => ?_⟩
  · rcases f with _ | _ | _ | _ <;> decide
  · rcases f with _ | _ | _ | _ <;> cases v <;> decide

/-- Settles O38: the sample is the observation port's, which shows the number of the password bytes alone. -/
theorem observationIsReadOnlyAndHidesPassword : Obligations.ObservationIsReadOnlyAndHidesPassword := by
  intro s
  obtain ⟨hnone, hsome⟩ := faultCode_eq_iff s.fault
  refine ⟨⟨s.observation, rfl, rfl, rfl, rfl, ParserState.ofCode_code s.state, rfl, rfl, rfl, rfl, rfl, rfl, rfl, rfl, rfl,
    rfl, hnone, hsome⟩, fun p hlen => ?_⟩
  simp [State.observation, State.pwLen, hlen]

end Sys2Proof.Claims
end

section
/-! SUPPORT. Who writes each register (10_state.md section 9). -/

namespace Sys2Proof.Claims

open Sys2Proof Sys2Proof.Machine

/-- The rows that write the keys (R95 to R98). -/
def keyRows : List StepOp :=
  [.enchdrB0, .enchdrMid1, .enchdrMid2to3, .enchdrMid4to7, .enchdrMid8to9, .enchdrMid10, .enchdrB11, .dataByte]

/-- The registers of the tracker that differ are written by rows of which `ops` tells (10_state.md section 9). -/
def TrackerWrites (ops : List StepOp → Prop) (s t : State) : Prop :=
  (t.state ≠ s.state → ops [.sigM3, .sigMismatch, .flagsOk, .csizeB3, .fnlenHi, .eflenHi, .enchdrB11, .dataByte]) ∧
  (t.skipBytes ≠ s.skipBytes → ops [.skip, .sigM3, .flagsOk, .csizeB3, .eflenHi]) ∧
  (t.compressedSize ≠ s.compressedSize →
    ops [.flagsOk, .csizeB0, .csizeB1, .csizeB2, .csizeB3, .enchdrB11, .dataByte]) ∧
  (t.value ≠ s.value → ops [.csizeB3, .fnlenLo, .fnlenHi, .eflenLo, .eflenHi]) ∧
  (t.valuePos ≠ s.valuePos →
    ops [.flagsOk, .csizeB0, .csizeB1, .csizeB2, .csizeB3, .fnlenLo, .fnlenHi, .eflenLo, .eflenHi]) ∧
  (t.valueIncrement ≠ s.valueIncrement → ops [.flagsOk, .csizeB0, .csizeB1, .csizeB2, .csizeB3]) ∧
  (t.sigIdx ≠ s.sigIdx → ops [.sigM0, .sigM1, .sigM2, .sigM3, .sigMismatch]) ∧
  (t.hdrPos ≠ s.hdrPos →
    ops [.eflenHi, .enchdrB0, .enchdrMid1, .enchdrMid2to3, .enchdrMid4to7, .enchdrMid8to9, .enchdrMid10, .enchdrB11]) ∧
  (t.fnLen ≠ s.fnLen → ops [.fnlenHi])

theorem TrackerWrites.refl (ops : List StepOp → Prop) (s : State) : TrackerWrites ops s s := by
  simp [TrackerWrites]

theorem TrackerWrites.imp {ops ops' : List StepOp → Prop} {s t : State} (h : ∀ l, ops l → ops' l)
    (hw : TrackerWrites ops s t) : TrackerWrites ops' s t := by
  obtain ⟨h1, h2, h3, h4, h5, h6, h7, h8, h9⟩ := hw
  exact ⟨fun hne => h _ (h1 hne), fun hne => h _ (h2 hne), fun hne => h _ (h3 hne), fun hne => h _ (h4 hne),
    fun hne => h _ (h5 hne), fun hne => h _ (h6 hne), fun hne => h _ (h7 hne), fun hne => h _ (h8 hne),
    fun hne => h _ (h9 hne)⟩

/-- Each row by itself. -/
theorem afterRow_writes (op : StepOp) (b : Byte) (s : State) :
    ((s.afterRow op b).keys ≠ s.keys → op ∈ keyRows) ∧ TrackerWrites (op ∈ ·) s (s.afterRow op b) := by
  cases op <;> simp [TrackerWrites, keyRows, State.afterRow, rowRegs]

/-- A row that is performed writes its registers, and neither the password nor `session_open`. -/
theorem runRow_writes {op : StepOp} {b : Byte} {i : Instr} {s t : State} (hi : Performs s i op)
    (h : runRow op b s = .next t) :
    t.sessionOpen = s.sessionOpen ∧ t.pw = s.pw ∧ (t.keys ≠ s.keys → PerformsOneOf s i keyRows) ∧
      TrackerWrites (PerformsOneOf s i) s t := by
  rw [runRow_eq] at h
  rcases s.onEvent_cases h with ⟨-, rfl⟩ | ⟨-, rfl⟩
  · obtain ⟨hkeys, hregs⟩ := afterRow_writes op b s
    exact ⟨s.afterRow_sessionOpen op b, s.afterRow_pw op b, fun hne => ⟨op, hkeys hne, hi⟩,
      hregs.imp fun l hop => ⟨op, hop, hi⟩⟩
  · exact ⟨rfl, rfl, fun hne => absurd rfl hne, .refl _ t⟩

/-- Every operation but `OPEN` and reset: `session_open` is written by `CLOSE`, the keys by the generator's functions, all
else by the rows. -/
theorem exec_writes {i : Instr} {s t : State} (h : exec i s = .next t) : OpensOrResets i ∨
    ((t.sessionOpen ≠ s.sessionOpen → i = .close) ∧ t.pw = s.pw ∧
      (t.keys ≠ s.keys → (∃ p, i = .updateKeys p) ∨ i = .initKeys ∨ (∃ c, i = .decryptByte c) ∨
        PerformsOneOf s i keyRows) ∧
      TrackerWrites (PerformsOneOf s i) s t) := by
  induction i using Instr.rowCases with
  | openSession p => exact .inl (.inl ⟨p, rfl⟩)
  | reset => exact .inl (.inr rfl)
  | row op b =>
    rw [exec_instr] at h
    obtain ⟨hopen, hpw, hkeys, hregs⟩ := runRow_writes (i := op.instr b) ⟨b, .inl rfl⟩ h
    exact .inr ⟨fun hne => absurd hopen hne, hpw, fun hne => .inr (.inr (.inr (hkeys hne))), hregs⟩
  | push b =>
    change execPush b s = _ at h
    rcases execPush_cases s b with ⟨-, hp⟩ | ⟨-, op, u, hsel, hrow, hp⟩ | ⟨-, -, hp⟩ <;> cases hp.symm.trans h
    · exact .inr ⟨fun hne => absurd rfl hne, rfl, fun hne => absurd rfl hne, .refl _ s⟩
    · obtain ⟨hopen, hpw, hkeys, hregs⟩ := runRow_writes (i := .push b) ⟨b, .inr ⟨rfl, hsel⟩⟩ hrow
      exact .inr ⟨fun hne => absurd hopen hne, hpw, fun hne => .inr (.inr (.inr (hkeys hne))), hregs⟩
  | updateKeys p =>
    cases h
    exact .inr ⟨fun hne => absurd rfl hne, rfl, fun _ => .inl ⟨p, rfl⟩, .refl _ s⟩
  | initKeys =>
    cases h
    exact .inr ⟨fun hne => absurd rfl hne, rfl, fun _ => .inr (.inl rfl), .refl _ s⟩
  | decryptByte c =>
    cases h
    exact .inr ⟨fun hne => absurd rfl hne, rfl, fun _ => .inr (.inr (.inl ⟨c, rfl⟩)), .refl _ s⟩
  | srcEos =>
    rcases s.onEvent_cases (f := (·.answer .endOfStream)) h with ⟨-, rfl⟩ | ⟨-, rfl⟩ <;>
      exact .inr ⟨fun hne => absurd rfl hne, rfl, fun hne => absurd rfl hne, .refl _ _⟩
  | srcErr e =>
    rcases s.onEvent_cases (f := (·.answer (.ioError e))) h with ⟨-, rfl⟩ | ⟨-, rfl⟩ <;>
      exact .inr ⟨fun hne => absurd rfl hne, rfl, fun hne => absurd rfl hne, .refl _ _⟩
  | read =>
    rcases exec_read_cases h with ⟨d, rfl⟩ | ⟨-, rfl⟩ <;>
      exact .inr ⟨fun hne => absurd rfl hne, rfl, fun hne => absurd rfl hne, .refl _ s⟩
  | close =>
    change execClose s = _ at h
    unfold execClose at h
    split at h <;> cases h <;> exact .inr ⟨fun _ => rfl, rfl, fun hne => absurd rfl hne, .refl _ s⟩
  | crctab | crc32Step | deriveKsByte | obs =>
    cases h
    exact .inr ⟨fun hne => absurd rfl hne, rfl, fun hne => absurd rfl hne, .refl _ s⟩

/-- Settles O46, by `exec_writes`. -/
theorem onlyTheirWritersWriteRegisters : Obligations.OnlyTheirWritersWriteRegisters := by
  intro s t i h
  rcases exec_writes h with hi | ⟨hopen, hpw, hkeys, hregs⟩
  · simp [hi]
  · obtain ⟨h1, h2, h3, h4, h5, h6, h7, h8, h9⟩ := hregs.imp (ops' := fun l => OpensOrResets i ∨ PerformsOneOf s i l)
      fun _ => .inr
    exact ⟨fun hne => .inr (hkeys hne), h1, h2, h3, h4, h5, h6, h7, h8, h9, fun hne => .inr (hopen hne),
      fun hne => absurd hpw hne⟩

end Sys2Proof.Claims
end

section
/-! SUPPORT. What a step leaves of a session (spec rules R32, R43, R128), and the words placed for it (logs 14, 15). -/

namespace Sys2Proof.Claims

open Sys2Proof Sys2Proof.Machine

/-- Settles O48: `OPEN` and reset alone write the password, and `OPEN` is refused in an open session. -/
theorem passwordIsImmutableInASession : Obligations.PasswordIsImmutableInASession := by
  intro s t hstep hs ht
  rcases step_cases s with ⟨i, u, hf, hrun⟩ | ⟨u, hf, hrun⟩
  · obtain ⟨-, hopen, -, hpw⟩ := hf.keeps_registers
    rw [← hpw]
    have hexec := hrun.symm.trans hstep
    rcases exec_writes hexec with (⟨p, rfl⟩ | rfl) | ⟨-, hkept, -⟩
    · cases (exec_openSession_of_open p (hopen.trans hs)).symm.trans hexec
      rfl
    · cases hexec
      cases ht
    · exact hkept
  · cases hrun.symm.trans hstep
    exact hf.keeps_registers.2.2.2

/-- No operation takes an event from the source: the step did, if one was taken (R33). -/
theorem exec_keeps_src {i : Instr} {s t : State} (h : exec i s = .next t) : t.src = s.src := by
  induction i using Instr.rowCases with
  | row op b =>
    rw [exec_instr, runRow_eq] at h
    rcases s.onEvent_cases h with ⟨-, rfl⟩ | ⟨-, rfl⟩
    · exact s.afterRow_src op b
    · rfl
  | push b =>
    change execPush b s = _ at h
    rcases execPush_cases s b with ⟨-, hp⟩ | ⟨ha, op, u, -, hrow, hp⟩ | ⟨-, -, hp⟩ <;> cases hp.symm.trans h
    · rfl
    · cases (runRow_of_accepts op b ha).symm.trans hrow
      exact s.afterRow_src op b
  | srcEos => rcases s.onEvent_cases (f := (·.answer .endOfStream)) h with ⟨-, rfl⟩ | ⟨-, rfl⟩ <;> rfl
  | srcErr e => rcases s.onEvent_cases (f := (·.answer (.ioError e))) h with ⟨-, rfl⟩ | ⟨-, rfl⟩ <;> rfl
  | openSession p =>
    change execOpen p s = _ at h
    unfold execOpen at h
    split at h <;> cases h <;> rfl
  | read => rcases exec_read_cases h with ⟨d, rfl⟩ | ⟨-, rfl⟩ <;> rfl
  | close =>
    change execClose s = _ at h
    unfold execClose at h
    split at h <;> cases h <;> rfl
  | crctab | crc32Step | updateKeys | deriveKsByte | initKeys | decryptByte | reset | obs => cases h; rfl

/-- Settles O49: with a violation latched only commands, reset and an observation are run, and of these `OPEN` and reset
alone clear it. -/
theorem faultedSessionStaysFaulted : Obligations.FaultedSessionStaysFaulted := by
  intro s t v hstep hv
  have hreq : s.srcReq = false := Bool.eq_false_iff.mpr fun h => by simp [s.srcReq_iff, hv] at h
  rcases step_cases s with ⟨i, u, hf, hrun⟩ | ⟨u, hf, hrun⟩
  · have hexec := hrun.symm.trans hstep
    obtain ⟨-, hopen, hfault, -⟩ := hf.keeps_registers
    refine ⟨(exec_keeps_src hexec).trans (hf.src_eq hreq), ?_⟩
    rcases exec_fault_cases hexec with heq | ⟨hnone, -⟩ | ⟨hclear, ⟨p, rfl⟩ | rfl⟩
    · exact .inl (heq.trans (hfault.trans hv))
    · simp [hfault, hv] at hnone
    · cases hs : s.sessionOpen with
      | true =>
        cases (exec_openSession_of_open p (hopen.trans hs)).symm.trans hexec
        exact .inl (hfault.trans hv)
      | false =>
        cases (exec_openSession_of_closed p (hopen.trans hs)).symm.trans hexec
        exact .inr (.inr ⟨rfl, rfl, rfl, rfl⟩)
    · cases hexec
      exact .inr (.inl ⟨rfl, rfl⟩)
  · cases hrun.symm.trans hstep
    exact ⟨hf.src_eq hreq, .inl (hf.keeps_registers.2.2.1.trans hv)⟩

end Sys2Proof.Claims
end

section
/-! SUPPORT. An accepted byte and the loop of a `READ` (spec rules R24, R104, R107). -/

namespace Sys2Proof.Claims

open Sys2Proof Sys2Proof.Machine

/-- Settles O30: the byte performs one row, and a row gives one of the three. -/
theorem pushGivesOneDisposition : Obligations.PushGivesOneDisposition := by
  intro s b hinv hready
  obtain ⟨op, -, hpush⟩ := hinv.exists_push hready b
  refine ⟨_, rowDisposition op b s, hpush, s.afterRow_out op b, ?_, by simp, (s.afterRow_sessionOpen op b).trans hready.1,
    by simp⟩
  rcases rowDisposition_cases op b s with ⟨e, hd, -⟩ | ⟨hd, -⟩ | ⟨v, hd, -⟩
  · exact .inl ⟨e, hd⟩
  · exact .inr (.inl hd)
  · exact .inr (.inr ⟨v, hd⟩)

/-- Settles O50: `Data` has one row, and what a row that changes the state resets is written in it. -/
theorem sourceInvariantsHold : Obligations.SourceInvariantsHold := by
  intro s b hinv hready
  obtain ⟨op, hrow, hpush⟩ := hinv.exists_push hready b
  refine ⟨_, hpush, fun hdata => ?_, fun hne => ?_⟩
  · have hleft := hinv.data_pos hdata
    have hskip := hinv.skip_zero (.inr (.inl hdata))
    have hdown : (s.compressedSize - 1#32).toNat + 1 = s.compressedSize.toNat := by bv_omega
    have hlast : s.compressedSize - 1#32 = 0#32 ↔ (s.compressedSize - 1#32).toNat = 0 := BitVec.toNat_inj.symm
    obtain rfl : op = .dataByte := by cases hrow <;> simp_all
    change (s.compressedSize - 1#32).toNat + 1 = _ ∧
      ((if s.compressedSize - 1#32 = 0#32 then ParserState.signature else s.state) = _ ↔
        (s.compressedSize - 1#32).toNat = 0) ∧
      ((if s.compressedSize - 1#32 = 0#32 then ParserState.signature else s.state) = _ ↔
        (s.compressedSize - 1#32).toNat ≠ 0)
    rw [hdata, ne_eq, ← hlast]
    generalize s.compressedSize - 1#32 = n at hdown
    refine ⟨hdown, ?_⟩
    split_ifs with h <;> simp [h]
  · cases hrow
    case enchdrB11 hskip hst hpos =>
      by_cases hle : s.compressedSize.toNat ≤ 12 <;> simp [State.afterRow, rowRegs, hle]
    case dataByte hskip hst =>
      by_cases hlast : s.compressedSize - 1#32 = 0#32 <;> simp [State.afterRow, rowRegs, hlast, hst]
    all_goals simp_all [State.afterRow, rowRegs]

/-- What an event does that a `READ` in progress pulls: it gives a disposition, and after a `Drop` the next one can be
pulled (R107). -/
theorem exec_event_answers {i : Instr} {s : State} (hi : IsEvent i) (hinv : s.Inv) (hready : Ready s) :
    ∃ t d, exec i s = .next t ∧ t.Inv ∧ t.out = s.out ++ [d] ∧ t.reading = (s.reading && d == .drop) ∧
      t.pins = s.pins ∧ t.src = s.src ∧ (d = .drop → Ready t) := by
  rcases hi with ⟨b, rfl⟩ | rfl | ⟨e, rfl⟩
  · obtain ⟨op, hrow, hpush⟩ := hinv.exists_push hready b
    refine ⟨_, rowDisposition op b s, hpush, (hrow.kept hinv hready).1, by simp, by simp, by simp, by simp, fun hd => ?_⟩
    rcases rowDisposition_cases op b s with ⟨e, hd', -⟩ | ⟨-, hf⟩ | ⟨v, hd', -⟩
    · cases hd'.symm.trans hd
    · exact ⟨by simpa using hready.1, hf.trans hready.2⟩
    · cases hd'.symm.trans hd
  · have h := (endAndErrorPassThrough s hready).1
    exact ⟨_, .endOfStream, h, (exec_event_kept (.inr (.inl rfl)) hinv hready h).1, rfl, by simp [Answered], rfl, rfl,
      nofun⟩
  · have h := (endAndErrorPassThrough s hready).2 e
    exact ⟨_, .ioError e, h, (exec_event_kept (.inr (.inr ⟨e, rfl⟩)) hinv hready h).1, rfl, by simp [Answered], rfl, rfl,
      nofun⟩

/-- A run of one more step goes on from what the step answers. -/
theorem coreRun_succ (M : Host.Core) {s t : M.State} (h : M.step s = .next t) (n : Nat) :
    M.run (n + 1) s = M.run n t := by
  rw [Host.Core.run, h]

theorem run_succ {s t : State} (h : step s = .next t) (n : Nat) :
    Host.Core.run Sys2Proof.core (n + 1) s = Host.Core.run Sys2Proof.core n t :=
  coreRun_succ Sys2Proof.core h n

/-- The steps of a `READ` in progress are its loop. -/
theorem run_eq_readLoop (ws : List SrcWord) (s : State) (hsrc : s.src = ws) (hinv : s.Inv) (hready : Ready s)
    (hreading : s.reading = true) (hpins : s.pins = []) :
    ∃ n, n ≤ ws.length ∧ Host.Core.run Sys2Proof.core n s = .next (readLoop ws s) ∧
      ((readLoop ws s).reading = true → (readLoop ws s).src = []) := by
  induction ws generalizing s with
  | nil => exact ⟨0, le_rfl, rfl, fun _ => hsrc⟩
  | cons w ws ih =>
    have hidle : s.pins.head?.getD .idle = .idle := by rw [hpins]; rfl
    cases hdec : decode (.src w) with
    | error e =>
      have hstep := step_of_reservedEvent hidle hreading hready hsrc hdec
      have hloop : readLoop (w :: ws) s = Answered { s with pins := s.pins.tail, src := ws } .refused := by
        simp [readLoop, hdec, Answered, hpins]
      rw [hloop]
      exact ⟨1, by simp, run_succ hstep 0, nofun⟩
    | ok i =>
      have hpop : ({ s with pins := s.pins.tail, src := ws } : State) = { s with src := ws } := by simp [hpins]
      have hinv' : ({ s with src := ws } : State).Inv :=
        let ⟨hreg, hread, hopen⟩ := State.inv_iff.mp hinv
        State.inv_iff.mpr ⟨hreg, hread, hopen⟩
      obtain ⟨t, d, hexec, htinv, htout, htreading, htpins, htsrc, htready⟩ :=
        exec_event_answers (decode_src_cases hdec) hinv' hready
      have hstep := (step_of_event hidle hreading hready hsrc hdec).trans ((congrArg (exec i) hpop).trans hexec)
      have hloop : readLoop (w :: ws) s = if t.out.getLast? = some .drop then readLoop ws t else t := by
        simp only [readLoop, hdec, hexec]
      have hlast : t.out.getLast? = some .drop ↔ d = .drop := by simp [htout]
      rw [hloop]
      by_cases hd : d = .drop
      · rw [if_pos (hlast.mpr hd)]
        obtain ⟨n, hn, hrun, hend⟩ := ih t htsrc htinv (htready hd) (by simp [htreading, hd, hreading])
          (htpins.trans hpins)
        exact ⟨n + 1, Nat.succ_le_succ hn, (run_succ hstep n).trans hrun, hend⟩
      · rw [if_neg (hlast.not.mpr hd)]
        exact ⟨1, by simp, run_succ hstep 0, fun h => by simp [htreading, hd] at h⟩

/-- Settles O34, by induction over the events. -/
theorem readIsTheLoopOverSourceEvents : Obligations.ReadIsTheLoopOverSourceEvents :=
  fun s hinv hready hreading hpins => run_eq_readLoop s.src s rfl hinv hready hreading hpins

end Sys2Proof.Claims
end

section
/-! SUPPORT. What a row does not depend on (spec rules R24, R43, R103, R131, R133): the accumulator where it is not collected,
and what stands outside the session. -/

namespace Sys2Proof.Machine

open Sys2Proof.Claims

variable {s : State} {b : Byte} {op : StepOp}

-- The accumulator

/-- A state that collects a length is entered from the one before it, and left by completing the length. -/
theorem AtRow.length_entered (h : AtRow s b op)
    (ht : (s.afterRow op b).state = .filenameLength ∨ (s.afterRow op b).state = .extraFieldLength) :
    s.state = .filenameLength ∨ s.state = .extraFieldLength ∨ op = .csizeB3 := by
  cases h
  case enchdrB11 => by_cases hle : s.compressedSize.toNat ≤ 12 <;> simp [State.afterRow, rowRegs, hle] at ht
  case dataByte hst => by_cases hlast : s.compressedSize - 1#32 = 0#32 <;> simp [State.afterRow, rowRegs, hlast, hst] at ht
  all_goals simp_all [State.afterRow, rowRegs]

/-- The compressed size is collected from the flags byte on. -/
theorem AtRow.size_entered (h : AtRow s b op) (ht : (s.afterRow op b).state = .compressedSize) :
    s.state = .compressedSize ∨ op = .flagsOk := by
  cases h
  case enchdrB11 => by_cases hle : s.compressedSize.toNat ≤ 12 <;> simp [State.afterRow, rowRegs, hle] at ht
  case dataByte hst => by_cases hlast : s.compressedSize - 1#32 = 0#32 <;> simp [State.afterRow, rowRegs, hlast, hst] at ht
  all_goals simp_all [State.afterRow, rowRegs]

/-- Outside the two length states no row reads `value`; the one that enters them clears it. -/
theorem AtRow.afterRow_withValue (h : AtRow s b op) (v : Word) (hfn : s.state ≠ .filenameLength)
    (hef : s.state ≠ .extraFieldLength) :
    AtRow { s with value := v } b op ∧
      ∃ w, ({ s with value := v } : State).afterRow op b = { s.afterRow op b with value := w } ∧
        (op = .csizeB3 → w = (s.afterRow op b).value) := by
  refine ⟨by cases h <;> constructor <;> assumption, ?_⟩
  cases h
  case csizeB3 => exact ⟨_, rfl, fun _ => rfl⟩
  case fnlenLo hst _ | fnlenHi hst _ => exact absurd hst hfn
  case eflenLo hst _ | eflenHi hst _ => exact absurd hst hef
  all_goals exact ⟨v, rfl, nofun⟩

/-- Outside the three collecting states no row reads `value_pos`; the one that enters them clears it. -/
theorem AtRow.afterRow_withValuePos (h : AtRow s b op) (p : BitVec 2) (hcs : s.state ≠ .compressedSize)
    (hfn : s.state ≠ .filenameLength) (hef : s.state ≠ .extraFieldLength) :
    AtRow { s with valuePos := p } b op ∧
      ∃ q, ({ s with valuePos := p } : State).afterRow op b = { s.afterRow op b with valuePos := q } ∧
        (op = .flagsOk → q = (s.afterRow op b).valuePos) := by
  cases h
  case csizeB0 hst _ | csizeB1 hst _ | csizeB2 hst _ | csizeB3 hst _ => exact absurd hst hcs
  case fnlenLo hst _ | fnlenHi hst _ => exact absurd hst hfn
  case eflenLo hst _ | eflenHi hst _ => exact absurd hst hef
  case flagsOk => exact ⟨by constructor <;> assumption, _, rfl, fun _ => rfl⟩
  all_goals exact ⟨by constructor <;> assumption, p, rfl, nofun⟩

end Sys2Proof.Machine

namespace Sys2Proof.Claims

open Sys2Proof Sys2Proof.Machine

/-- Settles O60: the same row is performed, it reads neither register, and entering a collecting state clears them. -/
theorem accumulatorIsReadOnlyWhereCollected : Obligations.AccumulatorIsReadOnlyWhereCollected := by
  intro s b hinv hready
  obtain ⟨op, hrow, hpush⟩ := hinv.exists_push hready b
  refine ⟨fun v hfn hef => ?_, fun p hcs hfn hef => ?_⟩
  · obtain ⟨hrow', w, hafter, hw⟩ := hrow.afterRow_withValue v hfn hef
    refine ⟨_, w, hpush, (hrow'.exec_push hready).trans (congrArg _ hafter), fun ht => hw ?_⟩
    exact ((hrow.length_entered ht).resolve_left hfn).resolve_left hef
  · obtain ⟨hrow', q, hafter, hq⟩ := hrow.afterRow_withValuePos p hcs hfn hef
    refine ⟨_, q, hpush, (hrow'.exec_push hready).trans (congrArg _ hafter), fun ht => hq ?_⟩
    rcases ht with ht | ht
    · exact (hrow.size_entered ht).resolve_left hcs
    · obtain rfl : op = .csizeB3 := ((hrow.length_entered ht).resolve_left hfn).resolve_left hef
      cases hrow with
      | csizeB3 _ hst _ => exact absurd hst hcs

-- What stands outside the session

/-- The session registers of one state with everything outside the session of another: what is in progress, what stands at
the ports, what has gone out, and the model's own fields. -/
def withSurroundings (s x : State) : State :=
  { s with
    reading := x.reading, opening := x.opening, pins := x.pins, cmds := x.cmds, pwBeats := x.pwBeats, src := x.src,
    out := x.out, releases := x.releases, result := x.result, obsSample := x.obsSample }

/-- A row reads and writes the session registers alone. -/
theorem afterRow_withSurroundings (s x : State) (op : StepOp) (b : Byte) :
    (withSurroundings s x).afterRow op b = withSurroundings (s.afterRow op b) (x.answer (rowDisposition op b s)) := by
  cases op <;> rfl

theorem atRow_withSurroundings {s : State} {b : Byte} {op : StepOp} (h : AtRow s b op) (x : State) :
    AtRow (withSurroundings s x) b op := by
  cases h <;> constructor <;> assumption

/-- A run of bytes gives the same dispositions and leaves the same registers whatever stands outside the session. -/
theorem feed_withSurroundings (bs : List Byte) (s x : State) (hinv : s.RegInv) :
    ∃ t y ds, feed bs s = some t ∧ feed bs (withSurroundings s x) = some (withSurroundings t y) ∧
      t.out = s.out ++ ds ∧ y.out = x.out ++ ds := by
  induction bs generalizing s x with
  | nil => exact ⟨s, x, [], rfl, rfl, by simp, by simp⟩
  | cons b bs ih =>
    cases hacc : s.accepts with
    | false =>
      have hstay : ∀ u : State, u.accepts = false → feed (b :: bs) u = feed bs u := fun u hu => by
        have hpush : exec (.push b) u = .next u := by change execPush b u = _; rw [execPush, hu]; rfl
        simp [feed, hpush]
      rw [hstay s hacc, hstay (withSurroundings s x) hacc]
      exact ih s x hinv
    | true =>
      have hready := s.accepts_iff.mp hacc
      obtain ⟨op, hrow, -⟩ := hinv.exists_push hready b
      obtain ⟨t, y, ds, ht, hy, htout, hyout⟩ :=
        ih (s.afterRow op b) (x.answer (rowDisposition op b s)) (hrow.keeps_regInv hinv)
      rw [hrow.feed_cons hready, (atRow_withSurroundings hrow x).feed_cons hready, afterRow_withSurroundings]
      exact ⟨t, y, rowDisposition op b s :: ds, ht, hy, by simp [htout], by simp [hyout]⟩

/-- Settles O59: after `OPEN` the two sessions have the same registers. -/
theorem sessionsInheritNothing : Obligations.SessionsInheritNothing := by
  intro s u s' u' p bs hs hu hs' hu'
  cases (exec_openSession_of_closed p hs).symm.trans hs'
  cases (exec_openSession_of_closed p hu).symm.trans hu'
  obtain ⟨t, y, ds, ht, hy, htout, hyout⟩ := feed_withSurroundings bs
    (State.respond { s.clearSession with pw := p, sessionOpen := true } .ok)
    (State.respond { u.clearSession with pw := p, sessionOpen := true } .ok) (regInv_of_clear ⟨rfl, rfl, rfl, rfl⟩)
  exact ⟨t, withSurroundings t y, ds, ht, hy, htout, hyout, rfl⟩

end Sys2Proof.Claims
end

section
/-! SUPPORT. What does not depend on the secrets (spec rule R131 item 1): two states that agree but for these find the
same at their ports, but for the password of an `OPEN`, and run it alike. -/

namespace Sys2Proof.Claims

open Sys2Proof Sys2Proof.Machine

variable {s u : State}

/-- What reads none of the secrets reads the same in either. -/
theorem SameButSecrets.congr {α : Type} (h : SameButSecrets s u) (f : State → α)
    (hf : ∀ x : State, f { s with
      keys := x.keys, pw := x.pw, opening := x.opening, pwBeats := x.pwBeats, obsSample := x.obsSample, out := x.out } =
      f s) : f u = f s :=
  (congrArg f h.1).trans (hf u)

theorem SameButSecrets.opening (h : SameButSecrets s u) : u.opening.isSome = s.opening.isSome :=
  let ⟨_, hopening, _⟩ := h
  hopening

theorem SameButSecrets.beats (h : SameButSecrets s u) : u.pwBeats.map PwBeat.last = s.pwBeats.map PwBeat.last :=
  let ⟨_, _, hbeats, _⟩ := h
  hbeats

theorem SameButSecrets.out (h : SameButSecrets s u) : u.out.map hideByte = s.out.map hideByte :=
  let ⟨_, _, _, hout⟩ := h
  hout

/-- Whatever an update leaves of a state's secrets, the rest agrees if the update agrees on it. -/
theorem SameButSecrets.update (h : SameButSecrets s u) (f g : State → State)
    (hf : ∀ x, f { s with
      keys := x.keys, pw := x.pw, opening := x.opening, pwBeats := x.pwBeats, obsSample := x.obsSample, out := x.out } =
      { g s with
        keys := (f x).keys, pw := (f x).pw, opening := (f x).opening, pwBeats := (f x).pwBeats,
        obsSample := (f x).obsSample, out := (f x).out })
    (hopening : (f u).opening.isSome = (g s).opening.isSome)
    (hbeats : (f u).pwBeats.map PwBeat.last = (g s).pwBeats.map PwBeat.last)
    (hout : (f u).out.map hideByte = (g s).out.map hideByte) : SameButSecrets (g s) (f u) := by
  refine ⟨?_, hopening, hbeats, hout⟩
  have hu := hf u
  rwa [← h.1] at hu

/-- Answering alike, but for the byte of an `Emit`. -/
theorem SameButSecrets.respond (h : SameButSecrets s u) {d e : Disposition} (hd : hideByte e = hideByte d) :
    SameButSecrets (s.respond d) (u.respond e) :=
  h.update (·.respond e) (·.respond d) (fun _ => rfl) h.opening h.beats (by simp [h.out, hd])

theorem SameButSecrets.answer (h : SameButSecrets s u) {d : Disposition} : SameButSecrets (s.answer d) (u.answer d) :=
  h.update (·.answer d) (·.answer d) (fun _ => rfl) h.opening h.beats (by simp [h.out])

/-- No row's disposition but the byte of an `Emit` depends on anything but the row. -/
theorem hideByte_rowDisposition (op : StepOp) (b : Byte) (s u : State) :
    hideByte (rowDisposition op b u) = hideByte (rowDisposition op b s) := by
  cases op <;> rfl

/-- The secrets go into a row's keys and into the byte it emits alone. -/
theorem SameButSecrets.afterRow (h : SameButSecrets s u) (op : StepOp) (b : Byte) :
    SameButSecrets (s.afterRow op b) (u.afterRow op b) :=
  h.update (·.afterRow op b) (·.afterRow op b) (fun _ => by cases op <;> rfl) (by simpa using h.opening)
    (by simpa using h.beats) (by simp [h.out, hideByte_rowDisposition op b s u])

/-- Two outcomes that agree but for the secrets: next states that do, or the same fault. -/
def SameOutcome (r r' : Result) : Prop :=
  (∀ t, r = .next t → ∃ v, r' = .next v ∧ SameButSecrets t v) ∧ ∀ f, r = .fault f → r' = .fault f

theorem sameOutcome_fault (f : Fault) : SameOutcome (.fault f) (.fault f) :=
  ⟨fun _ ht => absurd ht (by simp), fun _ hf => hf⟩

theorem SameButSecrets.outcome (h : SameButSecrets s u) : SameOutcome (.next s) (.next u) := by
  refine ⟨fun t ht => ?_, nofun⟩
  cases ht
  exact ⟨u, rfl, h⟩

theorem SameButSecrets.accepts_eq (h : SameButSecrets s u) : u.accepts = s.accepts := h.congr State.accepts fun _ => rfl

theorem SameButSecrets.sessionOpen_eq (h : SameButSecrets s u) : u.sessionOpen = s.sessionOpen :=
  h.congr State.sessionOpen fun _ => rfl

theorem SameButSecrets.onEvent (h : SameButSecrets s u) {f : State → State} (hf : SameButSecrets (f s) (f u)) :
    SameOutcome (s.onEvent f) (u.onEvent f) := by
  unfold State.onEvent
  rw [h.accepts_eq]
  cases s.accepts
  · exact h.outcome
  · exact hf.outcome

/-- A byte selects the same row in either state, or none in both (R28, R56). -/
theorem execPush_same (h : SameButSecrets s u) (b : Byte) : SameOutcome (execPush b s) (execPush b u) := by
  have hword : u.decodeWord b = s.decodeWord b := h.congr (State.decodeWord · b) fun _ => rfl
  unfold execPush State.stepByte
  rw [h.accepts_eq, hword]
  split
  · cases selectStep (s.decodeWord b) with
    | error e => exact sameOutcome_fault _
    | ok op =>
      simp only [runRow_eq]
      exact h.onEvent (f := (·.afterRow op b)) (h.afterRow op b)
  · exact h.outcome

/-- What the ports present to two states that agree but for the secrets. -/
inductive SameFetched : Option Instr × State → Option Instr × State → Prop
  | none {t v} (h : SameButSecrets t v) : SameFetched (none, t) (none, v)
  | openSession {t v p p'} (h : SameButSecrets t v) : SameFetched (some (.openSession p), t) (some (.openSession p'), v)
  | same {i t v} (hi : i = .reset ∨ i = .obs ∨ IsEvent i ∨ i = .read ∨ i = .close) (h : SameButSecrets t v) :
    SameFetched (some i, t) (some i, v)

theorem execOpen_same (h : SameButSecrets s u) (p p' : List Byte) : SameOutcome (execOpen p s) (execOpen p' u) := by
  unfold execOpen
  rw [h.sessionOpen_eq]
  cases s.sessionOpen
  · exact ((h.update (fun x => { x.clearSession with pw := p', sessionOpen := true })
      (fun x => { x.clearSession with pw := p, sessionOpen := true }) (fun _ => rfl) h.opening h.beats h.out).respond
      rfl).outcome
  · exact (h.respond rfl).outcome

theorem execRead_same (h : SameButSecrets s u) : SameOutcome (exec .read s) (exec .read u) := by
  have hfault : u.fault = s.fault := h.congr State.fault fun _ => rfl
  obtain ⟨hrefused, hfail, hstart⟩ := readStartsOrAnswersAtOnce s
  obtain ⟨hrefused', hfail', hstart'⟩ := readStartsOrAnswersAtOnce u
  by_cases hs : s.sessionOpen = true
  · have hs' := h.sessionOpen_eq.trans hs
    rcases Option.eq_none_or_eq_some s.fault with hf | ⟨v, hf⟩
    · rw [hstart ⟨hs, hf⟩, hstart' ⟨hs', hfault.trans hf⟩]
      exact (h.update ({ · with reading := true }) ({ · with reading := true }) (fun _ => rfl) h.opening
        h.beats h.out).outcome
    · rw [hfail v hs hf, hfail' v hs' (hfault.trans hf)]
      exact (h.respond rfl).outcome
  · have hs := Bool.eq_false_of_not_eq_true hs
    rw [hrefused hs, hrefused' (h.sessionOpen_eq.trans hs)]
    exact (h.respond rfl).outcome

theorem execClose_same (h : SameButSecrets s u) : SameOutcome (execClose s) (execClose u) := by
  unfold execClose
  rw [h.sessionOpen_eq]
  cases s.sessionOpen
  · exact (h.respond rfl).outcome
  · exact ((h.update (fun x => { x with sessionOpen := false, releases := x.releases + 1 })
      (fun x => { x with sessionOpen := false, releases := x.releases + 1 }) (fun _ => rfl) h.opening h.beats
      h.out).respond rfl).outcome

theorem exec_same {i : Instr} (hi : i = .reset ∨ i = .obs ∨ IsEvent i ∨ i = .read ∨ i = .close)
    (h : SameButSecrets s u) : SameOutcome (exec i s) (exec i u) := by
  rcases hi with rfl | rfl | (⟨b, rfl⟩ | rfl | ⟨e, rfl⟩) | rfl | rfl
  · refine (h.update (fun x => { x.clearSession with sessionOpen := false, pw := [], reading := false, opening := none })
      (fun x => { x.clearSession with sessionOpen := false, pw := [], reading := false, opening := none })
      (fun _ => rfl) rfl h.beats h.out).outcome
  · exact (h.update (fun x => { x with obsSample := some u.observation })
      (fun x => { x with obsSample := some s.observation }) (fun _ => rfl) h.opening h.beats h.out).outcome
  · exact execPush_same h b
  · exact h.onEvent (f := (·.answer .endOfStream)) h.answer
  · exact h.onEvent (f := (·.answer (.ioError e))) h.answer
  · exact execRead_same h
  · exact execClose_same h

theorem fetchEvent_same (h : SameButSecrets s u) : SameFetched s.fetchEvent u.fetchEvent := by
  have hsrc : u.src = s.src := h.congr State.src fun _ => rfl
  have htake : ∀ ws, SameButSecrets { s with src := ws } { u with src := ws } := fun ws =>
    h.update ({ · with src := ws }) ({ · with src := ws }) (fun _ => rfl) h.opening h.beats h.out
  unfold State.fetchEvent
  rw [hsrc]
  cases s.src with
  | nil => exact .none h
  | cons w ws =>
    cases hdec : decode (.src w) with
    | ok i => simpa only [hdec] using .same (.inr (.inr (.inl (decode_src_cases hdec)))) (htake ws)
    | error e => simpa only [hdec] using .none (htake ws).answer

theorem fetchPassword_same (h : SameButSecrets s u) (got got' : List Byte) :
    SameFetched (s.fetchPassword got) (u.fetchPassword got') := by
  have hlast := h.beats
  unfold State.fetchPassword
  cases hs : s.pwBeats with
  | nil =>
    rw [hs, List.map_nil, List.map_eq_nil_iff] at hlast
    rw [hlast]
    exact .none h
  | cons p ps =>
    rw [hs, List.map_cons, List.map_eq_cons_iff] at hlast
    obtain ⟨p', ps', hu, hp, hps⟩ := hlast
    simp only [hu, decode_openWord, hp]
    cases p.last with
    | true =>
      exact .openSession (h.update ({ · with pwBeats := ps', opening := none })
        ({ · with pwBeats := ps, opening := none }) (fun _ => rfl) rfl hps h.out)
    | false =>
      exact .none (h.update ({ · with pwBeats := ps', opening := some (got' ++ [p'.data]) })
        ({ · with pwBeats := ps, opening := some (got ++ [p.data]) }) (fun _ => rfl) rfl hps h.out)

theorem fetchCommand_same (h : SameButSecrets s u) : SameFetched s.fetchCommand u.fetchCommand := by
  have hcmds : u.cmds = s.cmds := h.congr State.cmds fun _ => rfl
  have htake : ∀ cs, SameButSecrets { s with cmds := cs } { u with cmds := cs } := fun cs =>
    h.update ({ · with cmds := cs }) ({ · with cmds := cs }) (fun _ => rfl) h.opening h.beats h.out
  unfold State.fetchCommand
  rw [hcmds]
  cases s.cmds with
  | nil => exact .none h
  | cons c cs =>
    cases hdec : decode (.cmd c []) with
    | ok i =>
      simp only [hdec]
      rcases decode_cmd_cases hdec with rfl | rfl | rfl
      · exact .openSession (htake cs)
      · exact .same (.inr (.inr (.inr (.inl rfl)))) (htake cs)
      · exact .same (.inr (.inr (.inr (.inr rfl)))) (htake cs)
    | error e =>
      cases e
      case passwordPending =>
        by_cases ho : s.sessionOpen = true
        · simpa only [hdec, if_pos ho, if_pos (h.sessionOpen_eq.trans ho)] using .openSession (htake cs)
        · simp only [hdec, if_neg ho, if_neg (h.sessionOpen_eq ▸ ho)]
          exact .none (h.update ({ · with cmds := cs, opening := some [] }) ({ · with cmds := cs, opening := some [] })
              (fun _ => rfl) rfl h.beats h.out)
      all_goals simpa only [hdec] using .none (htake cs)

theorem fetchChannel_same (h : SameButSecrets s u) : SameFetched s.fetchChannel u.fetchChannel := by
  have hreq : u.srcReq = s.srcReq := h.congr State.srcReq fun _ => rfl
  have hreading : u.reading = s.reading := h.congr State.reading fun _ => rfl
  have hopening := h.opening
  unfold State.fetchChannel
  rw [hreq]
  cases s.srcReq with
  | true => exact fetchEvent_same h
  | false =>
    cases hs : s.opening <;> cases hu : u.opening <;> simp [hs, hu] at hopening
    · simp only [State.cmdReady, hreading, hs, hu]
      cases s.reading
      · exact fetchCommand_same h
      · exact .none h
    · exact fetchPassword_same h _ _

theorem fetch_same (h : SameButSecrets s u) : SameFetched s.fetch u.fetch := by
  have hpins : u.pins = s.pins := h.congr State.pins fun _ => rfl
  have hpop : ∀ ps, SameButSecrets { s with pins := ps } { u with pins := ps } := fun ps =>
    h.update ({ · with pins := ps }) ({ · with pins := ps }) (fun _ => rfl) h.opening h.beats h.out
  unfold State.fetch
  rw [hpins]
  cases s.pins with
  | nil => exact fetchChannel_same h
  | cons p ps =>
    cases p with
    | idle => exact fetchChannel_same (hpop ps)
    | rst => exact .same (.inl rfl) (hpop ps)
    | obs => exact .same (.inr (.inl rfl)) (hpop ps)

/-- Settles O58: either step finds the same at the ports, and runs it alike. -/
theorem controlIsIndependentOfSecrets : Obligations.ControlIsIndependentOfSecrets := by
  intro s u h
  change SameOutcome (step s) (step u)
  have hf := fetch_same h
  rcases hs : s.fetch with ⟨o, t⟩
  rcases hu : u.fetch with ⟨o', v⟩
  rw [hs, hu] at hf
  cases hf with
  | none h => rw [step_of_fetch_none hs, step_of_fetch_none hu]; exact h.outcome
  | openSession h => rw [step_of_fetch_some hs, step_of_fetch_some hu]; exact execOpen_same h _ _
  | same hi h => rw [step_of_fetch_some hs, step_of_fetch_some hu]; exact exec_same hi h

end Sys2Proof.Claims
end

section
/-! SUPPORT. The keystream generator's words and bytes in natural numbers (spec rules R70, R71, R73). -/

namespace Sys2Proof.Machine

open Sys2Proof.Claims

/-- The printed table is what the reflected algorithm makes (R70). -/
theorem crctab_eq_crcEntry : ∀ i : Byte, crctab i = crcEntry i := by decide +kernel

/-- The shift by 8 and the low byte of the XOR, as R71 writes them. -/
theorem crc32Step_eq_ofNat (old : Word) (b : Byte) :
    crc32Step old b = BitVec.ofNat 32 (old.toNat / 256) ^^^ crctab (BitVec.ofNat 8 ((old.toNat ^^^ b.toNat) % 256)) := by
  have hshift : old >>> 8 = BitVec.ofNat 32 (old.toNat / 256) := by
    apply BitVec.eq_of_toNat_eq
    rw [BitVec.toNat_ushiftRight, Nat.shiftRight_eq_div_pow, BitVec.toNat_ofNat]
    omega
  have hindex : byteOf old ^^^ b = BitVec.ofNat 8 ((old.toNat ^^^ b.toNat) % 256) := by
    apply BitVec.eq_of_toNat_eq
    have hb : b.toNat % 256 = b.toNat := Nat.mod_eq_of_lt b.isLt
    simp [byteOf, Nat.xor_mod_two_pow (n := 8), hb]
  rw [crc32Step, hshift, hindex]

theorem Keys.temp_toNat (k : Keys) : k.temp.toNat = (k.k2.toNat ||| 2) % 65536 := by
  rw [Keys.temp, BitVec.toNat_setWidth, BitVec.toNat_or]
  rfl

/-- The 32-bit product of two 16-bit factors is exact (R73). -/
theorem Keys.keystreamByte_toNat (k : Keys) : k.keystreamByte.toNat = keystreamNat k.k2.toNat := by
  have htemp := k.temp.isLt
  have hother := (k.temp ^^^ 1#16).isLt
  have hexact : k.temp.toNat * (k.temp ^^^ 1#16).toNat < 2 ^ 32 :=
    (Nat.mul_lt_mul'' htemp hother).trans_eq (by decide)
  rw [keystreamNat, ← k.temp_toNat, show k.temp.toNat ^^^ 1 = (k.temp ^^^ 1#16).toNat from rfl, Keys.keystreamByte]
  simp only [BitVec.extractLsb'_toNat, BitVec.toNat_mul, BitVec.toNat_setWidth, Nat.shiftRight_eq_div_pow]
  rw [Nat.mod_eq_of_lt (htemp.trans (by decide)), Nat.mod_eq_of_lt (hother.trans (by decide)),
    Nat.mod_eq_of_lt hexact]

/-- Of `k2`, `temp` has bits 15 to 2 and bit 0; bit 1 is always set (R73). -/
theorem Keys.temp_getLsbD (k : Keys) {i : Nat} (hi : i < 16) : k.temp.getLsbD i = (k.k2.getLsbD i || i == 1) := by
  have htwo : ∀ i < 16, (2#32).getLsbD i = (i == 1) := by decide
  rw [Keys.temp, BitVec.getLsbD_setWidth, BitVec.getLsbD_or, htwo i hi, decide_eq_true hi, Bool.true_and]

/-- Bits 15 to 2 of `k2` fix `temp` but for its bit 0 (R73). -/
theorem Keys.temp_eq_or_eq_xor {k k' : Keys} (h : k.k2.extractLsb' 2 14 = k'.k2.extractLsb' 2 14) :
    k'.temp = k.temp ∨ k'.temp = k.temp ^^^ 1#16 := by
  have hone : ∀ i < 16, (1#16).getLsbD i = (i == 0) := by decide
  have hhigh : ∀ i < 14, k.k2.getLsbD (i + 2) = k'.k2.getLsbD (i + 2) := by
    intro i hi
    simpa [hi, Nat.add_comm 2 i] using congrArg (BitVec.getLsbD · i) h
  by_cases hbit : k'.k2.getLsbD 0 = k.k2.getLsbD 0
  · refine .inl (BitVec.eq_of_getLsbD_eq fun i hi => ?_)
    rw [k.temp_getLsbD hi, k'.temp_getLsbD hi]
    match i with
    | 0 => rw [hbit]
    | 1 => simp
    | i + 2 => rw [hhigh i (by omega)]
  · refine .inr (BitVec.eq_of_getLsbD_eq fun i hi => ?_)
    rw [BitVec.getLsbD_xor, hone i hi, k.temp_getLsbD hi, k'.temp_getLsbD hi]
    match i with
    | 0 => simpa using Bool.eq_not.mpr hbit
    | 1 => simp
    | i + 2 => simp [hhigh i (by omega)]

/-- `temp` and `temp XOR 1` give one product, whichever of the two `temp` is (R73). -/
theorem Keys.keystreamByte_of_temp_xor {k k' : Keys} (h : k'.temp = k.temp ^^^ 1#16) :
    k.keystreamByte = k'.keystreamByte := by
  rw [Keys.keystreamByte, Keys.keystreamByte, h, BitVec.xor_assoc, BitVec.xor_self, BitVec.xor_zero, BitVec.mul_comm]

end Sys2Proof.Machine

namespace Sys2Proof.Claims

open Sys2Proof Sys2Proof.Machine

/-- Settles O1: the algorithm made every entry. -/
theorem crcTableIsTheReflectedAlgorithm : Obligations.CrcTableIsTheReflectedAlgorithm := by
  refine ⟨fun i s => ?_, by decide +kernel⟩
  change Host.Outcome.next { s with result := some (.word (crctab i)) } = _
  rw [crctab_eq_crcEntry]
  rfl

/-- Settles O2. -/
theorem crc32StepReturnsShiftXorTable : Obligations.Crc32StepReturnsShiftXorTable :=
  fun old b _ => ⟨_, rfl, crc32Step_eq_ofNat old b⟩

/-- Settles O4: the product is exact. -/
theorem keystreamByteIsMiddleOfProduct : Obligations.KeystreamByteIsMiddleOfProduct :=
  fun s => ⟨_, rfl, s.keys.keystreamByte_toNat⟩

/-- Settles O5: bit 1 of `temp` is always set, and bit 0 only says which factor is which. -/
theorem keystreamByteUsesOnlyBits15To2 : Obligations.KeystreamByteUsesOnlyBits15To2 := by
  intro k k' h
  rcases Keys.temp_eq_or_eq_xor h with htemp | htemp
  · rw [Keys.keystreamByte, Keys.keystreamByte, htemp]
  · exact Keys.keystreamByte_of_temp_xor htemp

/-- Settles O7: the keystream byte is read from the keys as they are before the update. -/
theorem decryptByteThenUpdatesWithPlaintext : Obligations.DecryptByteThenUpdatesWithPlaintext :=
  fun _ s => ⟨s.keys.keystreamByte, _, _, rfl, rfl, rfl, rfl⟩

/-- Settles O23. -/
theorem tailByteIsRelayedUnchanged : Obligations.TailByteIsRelayedUnchanged :=
  fun _ b hready _ _ => hready.exec_row (fun _ => rfl) (answer_emit _ b)

end Sys2Proof.Claims
end

section
/-! SUPPORT. A decode word placed as a control position and a byte (spec rules R56, R57; logs 14, 15): where a position
register holds two bits of `idx` only, the rows of the position are those of the word. -/

namespace Sys2Proof

/-- What of `idx` a control position holds: two bits for a field of up to four bytes, all four in the encryption header,
none where the state goes by no position (R56). -/
def keptIdx (st : BitVec 3) (idx : BitVec 4) : BitVec 4 :=
  if st = 5#3 then idx
  else if st = 1#3 ∨ st = 6#3 ∨ st = 7#3 then 0#4
  else (idx.setWidth 2).setWidth 4

/-- Where a position can arise, no row tells apart what it holds of `idx` from `idx`. -/
theorem rows_of_keptIdx : ∀ n st idx, ¬StuckPosition n st idx → ∀ r ∈ allRows,
    (positionByte n st (keptIdx st idx) &&& dwHigh r.mask = dwHigh r.pattern ↔
      positionByte n st idx &&& dwHigh r.mask = dwHigh r.pattern) := by
  unfold StuckPosition
  decide +kernel

/-- Words that the same rows apply to select the same row. -/
theorem selectStep_congr {dw dw' : DecodeWord} (h : ∀ r ∈ allRows, (r.applies dw = true ↔ r.applies dw' = true)) :
    selectStep dw = selectStep dw' := by
  obtain ⟨hfallback, hrows⟩ := List.forall_mem_cons.mp h
  have hfind : stepRows.find? (fun r => r.applies dw) = stepRows.find? (fun r => r.applies dw') :=
    List.find?_congr fun r hr => Bool.eq_iff_iff.mpr (hrows r hr)
  rw [selectStep, selectStep, hfind, Bool.eq_iff_iff.mpr hfallback]

/-- What a decode word decodes to, so does the word of the position that is set for it. -/
theorem decodeStep_keptIdx {dw : DecodeWord} {i : Instr} (h : decodeStep dw = .ok i) :
    decodeStep (packDecodeWord (dwSkipnz dw) (dwState dw) (keptIdx (dwState dw) (dwIdx dw)) (dwByte dw)) = .ok i := by
  have hpack := pack_fields dw
  have hpos : ¬StuckPosition (dwSkipnz dw) (dwState dw) (dwIdx dw) := by
    rw [← decodeStep_pack_eq_error_iff _ _ _ (dwByte dw), hpack, h]
    simp
  have hsel : selectStep (packDecodeWord (dwSkipnz dw) (dwState dw) (keptIdx (dwState dw) (dwIdx dw)) (dwByte dw)) =
      selectStep dw := by
    refine selectStep_congr fun r hr => ?_
    rw [r.applies_iff_bytes, r.applies_iff_bytes dw, dwHigh_pack, dwByte_pack, rows_of_keptIdx _ _ _ hpos r hr,
      ← dwHigh_pack _ _ _ (dwByte dw), hpack]
  rw [← h, decodeStep, decodeStep, hsel, dwByte_pack]

end Sys2Proof

namespace Sys2Proof.Claims

open Sys2Proof Sys2Proof.Machine

/-- The decode word of the position that is set for a decode word. -/
theorem decodeWord_withControl (s : State) (dw : DecodeWord) (b : Byte) : (s.withControl dw).decodeWord b =
    packDecodeWord (dwSkipnz dw) (dwState dw) (keptIdx (dwState dw) (dwIdx dw)) b := by
  have hskip : ((s.withControl dw).skipBytes != 0#32) = dwSkipnz dw := by
    by_cases hn : dwSkipnz dw = true
    · by_cases hs : s.skipBytes = 0#32 <;> simp [State.withControl, hn, hs]
    · simp [State.withControl, hn]
  have hidx : (s.withControl dw).idx = keptIdx (dwState dw) (dwIdx dw) := by
    rw [← ParserState.code_ofCode (dwState dw)]
    unfold State.idx State.withControl
    cases ParserState.ofCode (dwState dw) <;> rfl
  rw [State.decodeWord, hskip, hidx, show (s.withControl dw).state.code = dwState dw from ParserState.code_ofCode _]

/-- The placed word's byte finds the row at the position set for it. -/
theorem decodeWord_present_step (s : State) {dw : DecodeWord} {i : Instr} (h : decode (.step dw) = .ok i) :
    decodeStep ((s.present (.step dw)).decodeWord (dwByte dw)) = .ok i := by
  change decodeStep ((s.withControl dw).decodeWord (dwByte dw)) = .ok i
  rw [decodeWord_withControl]
  exact decodeStep_keptIdx h

/-- The byte of a placed decode word performs the word's row (R104). -/
theorem step_present_step (s : State) {dw : DecodeWord} {i : Instr} (h : decode (.step dw) = .ok i) :
    step (s.present (.step dw)) = exec i { s.present (.step dw) with pins := s.pins, src := s.src } := by
  have hready : Ready { s.present (.step dw) with pins := s.pins, src := s.src } := ⟨rfl, rfl⟩
  calc step (s.present (.step dw))
      = exec (.push (dwByte dw)) { s.present (.step dw) with pins := s.pins, src := s.src } :=
        step_of_event rfl rfl ⟨rfl, rfl⟩ rfl rfl
    _ = exec i { s.present (.step dw) with pins := s.pins, src := s.src } :=
        hready.exec_push _ (decodeWord_present_step s h)

/-- Settles O41: a decode word's byte finds its row at the position set for it; any other word is one of a channel's. -/
theorem placedWordRunsNext : Obligations.PlacedWordRunsNext := by
  intro s nbits w i hdec
  have hdec : decode (tableWord nbits w) = .ok i := by
    unfold decodeTableWord at hdec
    split at hdec <;> simp_all
  unfold State.withFetchWord
  unfold tableWord at hdec ⊢
  split_ifs at hdec ⊢ with hbits hcode
  · exact ⟨step_present_step s hdec, fun _ => decodeWord_present_step s hdec⟩
  · exact ⟨step_of_event rfl rfl ⟨rfl, rfl⟩ rfl hdec, fun h => absurd h hbits⟩
  · exact ⟨step_of_command rfl rfl rfl rfl hdec, fun h => absurd h hbits⟩

end Sys2Proof.Claims
end
